-- ==== Sys2Proof/Word.lean ====
section
/-! DEFINITION. The two forms of the block, its W-bit word, and the quadruple that every
four-lane value of the spec is made of (spec/00_scope.md R2, R7, R8, R10). -/

namespace Sys2Proof

/-- The two parametric forms of the block (R2). A form is a build parameter: no command changes it. -/
inductive Form where
  | xpp128
  | xpp256
  deriving DecidableEq, Repr

/-- The lane width W of a form (R2): 32 for XPP128, 64 for XPP256. -/
abbrev Form.width : Form → Nat
  | .xpp128 => 32
  | .xpp256 => 64

/-- A W-bit unsigned value (R8). -/
abbrev Word (f : Form) := BitVec f.width

/-- A lane index, 0 to 3 (R7, R37). -/
abbrev Lane := Fin 4

/-- Four like things in the fixed order 0, 1, 2, 3: the lanes, a coefficient table (R7, R10). -/
structure Quad (α : Type) where
  q0 : α
  q1 : α
  q2 : α
  q3 : α
  deriving DecidableEq, Repr

/-- Entry `n` of a quadruple. -/
def Quad.get {α : Type} (q : Quad α) : Lane → α
  | 0 => q.q0
  | 1 => q.q1
  | 2 => q.q2
  | 3 => q.q3

/-- The quadruple with entry `n` replaced. -/
def Quad.set {α : Type} (q : Quad α) (n : Lane) (v : α) : Quad α :=
  match n with
  | 0 => { q with q0 := v }
  | 1 => { q with q1 := v }
  | 2 => { q with q2 := v }
  | 3 => { q with q3 := v }

/-- Entrywise image. -/
def Quad.map {α β : Type} (g : α → β) (q : Quad α) : Quad β :=
  ⟨g q.q0, g q.q1, g q.q2, g q.q3⟩

/-- A 4-tuple of lanes that all hold values: the `s` of the spec's pseudocode (R10). -/
abbrev LaneState (f : Form) := Quad (Word f)

/-- The all-zero 4-tuple (R16, R50). -/
def LaneState.zero (f : Form) : LaneState f := ⟨0, 0, 0, 0⟩

/-- The lane-wise XOR `x ^^ y` of R10. -/
def LaneState.xor {f : Form} (x y : LaneState f) : LaneState f :=
  ⟨x.q0 ^^^ y.q0, x.q1 ^^^ y.q1, x.q2 ^^^ y.q2, x.q3 ^^^ y.q3⟩

end Sys2Proof
end

