-- ==== Sys2Proof/Machine/Primitives.lean ====
section
/-! DEFINITION. The arithmetic primitives of spec/00_scope.md R9. Each wraps or masks to W bits;
a carry or a high product bit is recorded nowhere (spec/10_state.md R20). -/

namespace Sys2Proof.Machine

/-- `add_W(a, b) = (a + b) mod 2^W` (R9). -/
def addW {f : Form} (a b : Word f) : Word f := a + b

/-- `mul_W(a, b)`: the low W bits of the product (R9). -/
def mulW {f : Form} (a b : Word f) : Word f := a * b

/-- `shl_W(a, k)`: logical left shift, zero fill (R9). -/
def shlW {f : Form} (a : Word f) (k : Nat) : Word f := a <<< k

/-- `shr_W(a, k)`: logical right shift, zero fill (R9). -/
def shrW {f : Form} (a : Word f) (k : Nat) : Word f := a >>> k

/-- `rotl_W(a, k) = shl_W(a, k) | shr_W(a, W - k)`, defined for 0 < k < W (R9). -/
def rotlW {f : Form} (a : Word f) (k : Nat) : Word f := shlW a k ||| shrW a (f.width - k)

end Sys2Proof.Machine
end

