-- ==== Sys2Proof/Machine/Mixer.lean ====
section
/-! DEFINITION. An avalanche mixer as plain data: the xor-shift-multiply scrambler of the spec's glossary
(spec/00_scope.md section 6), written as the list of its steps, so that an instance can hold it
(spec/00_scope.md R6, spec/10_state.md R23, spec/42_seed.md R71). -/

namespace Sys2Proof.Machine

/-- One step of a mixer (R70, R71). -/
inductive MixStep (f : Form) where
  /-- `z ^ shr_W(z, k)`. The amount is below W, where `shr_W` has a value (R9); a mixer with a larger amount has
  no instance. DESIGN CHOICE (log 19), as is admitting the amount 0: R9 gives it a value, and no mixer of the
  spec uses it. -/
  | xorShift (k : Fin f.width)
  /-- `mul_W(z, m)`. -/
  | mul (m : Word f)
  deriving DecidableEq, Repr

/-- One step on a value. -/
def MixStep.apply {f : Form} : MixStep f → Word f → Word f
  | .xorShift k, z => z ^^^ shrW z k.val
  | .mul m, z => mulW z m

/-- The steps of a mixer in order. -/
def runMixer {f : Form} (steps : List (MixStep f)) (z : Word f) : Word f :=
  steps.foldl (fun z m => m.apply z) z

end Sys2Proof.Machine
end

