-- ==== Sys2Proof/Machine/Constants.lean ====
section
/-! DEFINITION. The constants of an instance: rotation and shift amounts, jump distances, the
capability constants (spec/00_scope.md R3 to R5), and the default values of the configuration
fields that R6 names (spec/41_jump.md R60, spec/42_seed.md R69 to R71). -/

namespace Sys2Proof.Machine

/-- R1, the output rotation (R3). -/
def outRotation : Form → Nat
  | .xpp128 => 7
  | .xpp256 => 23

/-- S, the shift amount (R3). -/
def shiftAmount : Form → Nat
  | .xpp128 => 9
  | .xpp256 => 17

/-- R2, the state rotation (R3). -/
def stateRotation : Form → Nat
  | .xpp128 => 11
  | .xpp256 => 45

/-- The number of steps JUMP stands for (R4). -/
def jumpDistance : Form → Nat
  | .xpp128 => 2 ^ 64
  | .xpp256 => 2 ^ 128

/-- The number of steps LJUMP stands for (R4). -/
def longJumpDistance : Form → Nat
  | .xpp128 => 2 ^ 96
  | .xpp256 => 2 ^ 192

/-- MIN, hardwired and read-only (R5, R21). -/
def minValue (f : Form) : Word f := 0

/-- MAX = 2^W − 1: all W bits one (R5, R21, R54). -/
def maxValue (f : Form) : Word f := BitVec.allOnes f.width

/-- `JUMP_TABLE_W` as R60 gives it. PRESUMED (log 2): the spec took it from general knowledge. -/
def defaultJumpTable : (f : Form) → Quad (Word f)
  | .xpp128 => ⟨0x8764000b#32, 0xf542d2d3#32, 0x6fa035c3#32, 0x77f2db5b#32⟩
  | .xpp256 => ⟨0x180ec6d33cfd0aba#64, 0xd5a61266f0c9392c#64, 0xa9582618e03fc9aa#64, 0x39abdc4529b1661c#64⟩

/-- `LONG_JUMP_TABLE_W` as R60 gives it. PRESUMED (log 2). -/
def defaultLongJumpTable : (f : Form) → Quad (Word f)
  | .xpp128 => ⟨0xb523952e#32, 0x0b6f099f#32, 0xccf5a0ef#32, 0x1c580662#32⟩
  | .xpp256 => ⟨0x76e15d3efefdcbbf#64, 0xc5004e441c522fb3#64, 0x77710069854ee241#64, 0x39109bb02acbe635#64⟩

/-- `GAMMA_W` as R69 gives it. PRESUMED (log 3). -/
def defaultGamma : (f : Form) → Word f
  | .xpp128 => 0x9e3779b9#32
  | .xpp256 => 0x9e3779b97f4a7c15#64

/-- The steps of `MIX_64`, "Stafford Mix13" (R70). PRESUMED (log 4): the constants are from general
knowledge. -/
def mix64Steps : List (MixStep .xpp256) :=
  [.xorShift 30, .mul 0xbf58476d1ce4e5b9#64, .xorShift 27, .mul 0x94d049bb133111eb#64, .xorShift 31]

/-- The steps of `MIX_32`, "triple32" (R71). PRESUMED (log 5): the spec itself calls the constants weakly
checked. -/
def mix32Steps : List (MixStep .xpp128) :=
  [.xorShift 17, .mul 0xed5ad4bb#32, .xorShift 11, .mul 0xac4c1b51#32, .xorShift 15,
    .mul 0x31848bab#32, .xorShift 14]

/-- The default of `MIX_W` (R70, R71). -/
def defaultMixSteps : (f : Form) → List (MixStep f)
  | .xpp128 => mix32Steps
  | .xpp256 => mix64Steps

end Sys2Proof.Machine
end

