-- ==== Sys2Proof/Config.lean ====
section
/-! DEFINITION. What is fixed for an instance and is not state (spec/10_state.md R17, R23;
spec/00_scope.md R6). No command reads a field as data or changes one. -/

namespace Sys2Proof

/-- The algorithm-version-specific constants of an instance of form `f` (R6): the parameters that the machine
takes beside the form. R1, S and R2 are fixed by the form (R3). Plain data, so that each instance holds
its own (R23). -/
structure Config (f : Form) where
  /-- `JUMP_TABLE_W` (R17, R60). -/
  jumpTable : Quad (Word f)
  /-- `LONG_JUMP_TABLE_W` (R17, R60). -/
  longJumpTable : Quad (Word f)
  /-- `GAMMA_W`, the splitmix increment (R69). -/
  gamma : Word f
  /-- The steps of `MIX_W`, the avalanche mixer (R70, R71; log 19). -/
  mixSteps : List (Machine.MixStep f)
  deriving DecidableEq, Repr

/-- `MIX_W` of a configuration (R6, R70, R71). -/
def Config.mix {f : Form} (cfg : Config f) : Word f → Word f := Machine.runMixer cfg.mixSteps

/-- The default configuration of a form (R6): the values of R60, R69, R70 and R71, which stand in
Machine/Constants.lean. PRESUMED (logs 2 to 5). -/
def Config.default (f : Form) : Config f where
  jumpTable := Machine.defaultJumpTable f
  longJumpTable := Machine.defaultLongJumpTable f
  gamma := Machine.defaultGamma f
  mixSteps := Machine.defaultMixSteps f

/-- The form of the instance that `State.reset` is a reset of. DESIGN CHOICE (log 1): R2 leaves the
form to the build. `State.resetOf` gives the reset of an instance of either form and any
configuration. -/
def Config.resetForm : Form := .xpp256

/-- `XPP_PLACEMENT` (spec/20_memory.md R34): where the ports sit in a larger system. Left open by the
spec, read by no rule and by no definition of the model (log 6). -/
opaque Config.placement : Nat

/-- `XPP_HANDSHAKE` (spec/70_reset_and_hazards.md R108): the signal that shows completion. Left open
by the spec, read by no rule and by no definition of the model (log 6). -/
opaque Config.handshake : Nat

end Sys2Proof
end

