-- ==== Sys2Proof/Syntax.lean ====
section
/-! DEFINITION. The eight commands (spec/30_encoding.md R39): one constructor per row of
spec/opcode_table.json. The data operand DIN is no part of the command word (R35, R36): it stands
beside the word on the command port (`Machine.Command`). -/

namespace Sys2Proof

/-- The commands, with the operand the command word itself carries: the lane index (R37, R44). -/
inductive Instr where
  /-- NEXT: one generator call (spec/40_generator.md R51). -/
  | next
  /-- JUMP (spec/41_jump.md R58). -/
  | jump
  /-- LJUMP (spec/41_jump.md R59). -/
  | ljump
  /-- SEED: expand DIN into a full state (spec/42_seed.md R72). -/
  | seed
  /-- LDL n: write lane n from DIN (spec/43_state_access.md R77). -/
  | ldl (n : Lane)
  /-- RDL n: read lane n (spec/43_state_access.md R78). -/
  | rdl (n : Lane)
  /-- RDMIN: read the minimum output value (spec/40_generator.md R53). -/
  | rdmin
  /-- RDMAX: read the maximum output value (spec/40_generator.md R54). -/
  | rdmax
  deriving DecidableEq, Repr

end Sys2Proof
end

