-- ==== Sys2Proof/WellFormed.lean ====
section
/-! DEFINITION. When a command word is well formed: the one 32-bit format of spec/30_encoding.md R35
and the three ways R41 lists in which a word is illegal. A term of `Instr` is well formed by its
type (its only operand is a `Lane`); the checks are on the fields of a word. -/

namespace Sys2Proof

/-- The three fields of a command word (R35). -/
structure CmdFields where
  /-- cmd[31:6], reserved. -/
  rsv : BitVec 26
  /-- cmd[5:4], the lane index. -/
  lane : BitVec 2
  /-- cmd[3:0], the operation code. -/
  op : BitVec 4
  deriving DecidableEq, Repr

/-- RSV must be zero (R38; R41, first bullet). -/
def CmdFields.rsvOk (c : CmdFields) : Bool := c.rsv == 0#26

/-- OP is one of the eight codes 0x1 to 0x8 (R39; R41, second bullet). -/
def CmdFields.opOk (c : CmdFields) : Bool := decide (1 ≤ c.op.toNat ∧ c.op.toNat ≤ 8)

/-- LANE is 00 unless the command is LDL or RDL (R37; R41, third bullet). -/
def CmdFields.laneOk (c : CmdFields) : Bool := c.lane == 0#2 || c.op == 5#4 || c.op == 6#4

/-- The fields spell a command: the complement of R41. -/
def CmdFields.wellFormed (c : CmdFields) : Bool := c.rsvOk && c.opOk && c.laneOk

end Sys2Proof
end

