-- ==== Sys2Proof/Decode.lean ====
section
/-! DEFINITION. Decoding, total over all 2^32 command words (spec/30_encoding.md R40), and after it the
encoder, written from the opcode map of R39. There is no byte order: a command word crosses the
port whole (spec/20_memory.md R28, R29). -/

namespace Sys2Proof

/-- Split a command word into its fields (R35). -/
def CmdFields.ofWord (cmd : BitVec 32) : CmdFields where
  rsv := cmd.extractLsb' 6 26
  lane := cmd.extractLsb' 4 2
  op := cmd.extractLsb' 0 4

/-- A command that has no lane operand: LANE must be 00 (R37, R41). -/
def laneless (lane : BitVec 2) (i : Instr) : Option Instr :=
  if lane = 0#2 then some i else none

/-- The lane index LANE, zero-extended (R37). -/
def laneIndex (lane : BitVec 2) : Lane := lane.toFin

/-- The opcode map of R39 on the two fields OP and LANE. -/
def decodeOp (op : BitVec 4) (lane : BitVec 2) : Option Instr :=
  match op.toNat with
  | 1 => laneless lane .next
  | 2 => laneless lane .jump
  | 3 => laneless lane .ljump
  | 4 => laneless lane .seed
  | 5 => some (.ldl (laneIndex lane))
  | 6 => some (.rdl (laneIndex lane))
  | 7 => laneless lane .rdmin
  | 8 => laneless lane .rdmax
  | _ => none

/-- Decode a command word (R40); `none` is the rule's ILLEGAL. -/
def decode (cmd : BitVec 32) : Option Instr :=
  if (CmdFields.ofWord cmd).rsv = 0#26 then
    decodeOp (CmdFields.ofWord cmd).op (CmdFields.ofWord cmd).lane
  else none

/-- The fields of a command's word (R39). -/
def Instr.fields : Instr → CmdFields
  | .next => ⟨0, 0, 0x1⟩
  | .jump => ⟨0, 0, 0x2⟩
  | .ljump => ⟨0, 0, 0x3⟩
  | .seed => ⟨0, 0, 0x4⟩
  | .ldl n => ⟨0, BitVec.ofFin n, 0x5⟩
  | .rdl n => ⟨0, BitVec.ofFin n, 0x6⟩
  | .rdmin => ⟨0, 0, 0x7⟩
  | .rdmax => ⟨0, 0, 0x8⟩

/-- Lay the fields out in a word, RSV highest (R35). -/
def CmdFields.toWord (c : CmdFields) : BitVec 32 := c.rsv ++ c.lane ++ c.op

/-- The command word of an instruction (R39, R45). -/
def encode (i : Instr) : BitVec 32 := i.fields.toWord

/-- The instruction the decoder reads from a word given as the opcode table numbers its bits. Every
command word is exactly 32 bits (R43), so a bit above them spells nothing. -/
def decodeTableWord (nbits w : Nat) : Option Instr :=
  if w % 2 ^ nbits < 2 ^ 32 then decode (BitVec.ofNat 32 (w % 2 ^ nbits)) else none

end Sys2Proof
end

