-- ==== Sys2Proof/Machine/State.lean ====
section
/-! DEFINITION. The state of one instance, as plain data (spec/10_state.md), and its reset values
(R25). `Block f` is the state of an instance of form `f`, and the machine with the form and the
configuration as parameters is over it (Machine/Parametric.lean). `State` is what the host's interface,
whose step has no argument but a state, calls a state: an instance, its build parameters beside its
block (log 1). -/

namespace Sys2Proof.Machine

/-- The two fault codes (spec/60_exceptions.md R85). -/
inductive FaultCode where
  /-- `F_ILLEGAL`, code 1: the command word spells no command. -/
  | illegal
  /-- `F_UNINIT`, code 2: the command reads a lane that is unwritten. -/
  | uninit
  deriving DecidableEq, Repr

/-- The number R85 gives a code. -/
def FaultCode.number : FaultCode → Nat
  | .illegal => 1
  | .uninit => 2

/-- What a fault records: the code and the 32-bit command word that faulted (R22, R85). -/
structure FaultRecord where
  code : FaultCode
  cmd : BitVec 32
  deriving DecidableEq, Repr

/-- A command as the host presents it: the word and the W-bit data operand DIN beside it (R35, R36). -/
structure Command (f : Form) where
  cmd : BitVec 32
  din : Word f
  deriving DecidableEq, Repr

/-- The state of one instance of form `f`. -/
structure Block (f : Form) where
  /-- The lanes s[0..3] (R13) with their written marks (R14): `none` is "unwritten". -/
  lanes : Quad (Option (Word f))
  /-- The result register DOUT (R15): `none` is "unwritten". -/
  dout : Option (Word f)
  /-- The fault record (R22). -/
  fault : Option FaultRecord
  /-- The command index (R19). -/
  cidx : Nat
  /-- The commands the host has issued or will issue, in order (R19, R30). -/
  program : List (Command f)
  deriving DecidableEq, Repr

/-- An instance: its build parameters, which nothing writes, and its state. -/
structure State where
  /-- W, fixed when the instance is built (R2): a parameter, no state (log 1). -/
  form : Form
  /-- The configuration held per instance (R6, R23): a parameter, no state (log 1). -/
  config : Config form
  /-- The state of the instance (R13 to R22). -/
  block : Block form
  deriving DecidableEq, Repr

/-- Why a step stops with a fault. -/
inductive Fault where
  /-- The fault record is set, so the state is terminal and no later command has a step (R88). Raised
  by every meaning and by `step`, in a state whose fault record is set. The command that faults is
  itself a next state, with the record written (R88). Safe: it is what the spec says. -/
  | halted (r : FaultRecord)
  deriving DecidableEq, Repr

/-- Why a step is refused. -/
inductive Refusal where
  /-- The instruction has no meaning in the model yet. Raised by `exec` alone, and by no arm now.
  Safe. -/
  | notModelled (mnemonic : String)
  /-- No command is on the port: every command of the list has completed (R104), or the host has not
  issued one since reset (R98). Raised by `step`, and by a meaning that reads DIN when no command
  accompanies it. Safe: the block waits, and nothing is claimed of the wait (log 8). -/
  | noCommand
  deriving DecidableEq, Repr

/-- The block right after reset (R25): every lane and DOUT unwritten, no fault, cidx 0, and no command
issued yet (R98). -/
def Block.reset (f : Form) : Block f where
  lanes := ⟨none, none, none, none⟩
  dout := none
  fault := none
  cidx := 0
  program := []

/-- The reset of an instance of form `f` with a configuration (R25, R98). -/
def State.resetOf {f : Form} (cfg : Config f) : State := ⟨f, cfg, Block.reset f⟩

/-- The machine right after reset: an instance of `Config.resetForm` with the default configuration
(log 1). -/
def State.reset : State := State.resetOf (Config.default Config.resetForm)

end Sys2Proof.Machine
end

