-- ==== Sys2Proof/Machine/Operands.lean ====
section
/-! DEFINITION. The operands of a command: what it reads and writes, as the tables of
spec/10_state.md R13 and spec/30_encoding.md R39 list it, and the data operand DIN of the command on
the port (R36). -/

namespace Sys2Proof

/-- The lanes a command reads (R13, R86): NEXT, JUMP and LJUMP all four, RDL the one it names. -/
def Instr.lanesRead : Instr → List Lane
  | .next | .jump | .ljump => [0, 1, 2, 3]
  | .rdl n => [n]
  | .seed | .ldl _ | .rdmin | .rdmax => []

/-- The lanes a command writes (R13): NEXT, JUMP, LJUMP and SEED all four, LDL the one it names. -/
def Instr.lanesWritten : Instr → List Lane
  | .next | .jump | .ljump | .seed => [0, 1, 2, 3]
  | .ldl n => [n]
  | .rdl _ | .rdmin | .rdmax => []

/-- The commands that write DOUT (R15, R39). -/
def Instr.writesDout : Instr → Bool
  | .next | .rdl _ | .rdmin | .rdmax => true
  | .jump | .ljump | .seed | .ldl _ => false

/-- The commands that read DIN (R36, R39). -/
def Instr.readsDin : Instr → Bool
  | .seed | .ldl _ => true
  | .next | .jump | .ljump | .rdl _ | .rdmin | .rdmax => false

end Sys2Proof

namespace Sys2Proof.Machine

/-- The command on the port: the one at position `cidx` of the host's list (R19, R30). -/
def Block.current {f : Form} (b : Block f) : Option (Command f) := b.program[b.cidx]?

/-- DIN, the data operand that accompanies the command on the port, taken whole (R10, R36, R44). -/
def Block.din {f : Form} (b : Block f) : Option (Word f) := b.current.map Command.din

end Sys2Proof.Machine
end

