-- ==== Sys2Proof/Machine/Flags.lean ====
section
/-! DEFINITION. The block has no status flags and no condition codes (spec/10_state.md R20). Its only
status bits are the written marks of the lanes (R14), which are read off the lanes here. -/

namespace Sys2Proof.Machine

/-- The written mark `init[n]` (R14). -/
def Block.init {f : Form} (b : Block f) (n : Lane) : Bool := (b.lanes.get n).isSome

/-- The 4-tuple of values, when all four lanes are written (R10, R51). -/
def allWritten {f : Form} : Quad (Option (Word f)) → Option (LaneState f)
  | ⟨some a, some b, some c, some d⟩ => some ⟨a, b, c, d⟩
  | _ => none

end Sys2Proof.Machine
end

