-- ==== Sys2Proof/Machine/Ops.lean ====
section
/-! DEFINITION. The operations every meaning is made of: completing a command, taking a fault
(spec/60_exceptions.md R85 to R91), reading and writing lanes, DOUT and DIN (spec/00_scope.md R10).
There is no memory (spec/20_memory.md R26, R27) and no return from a fault (R91). -/

namespace Sys2Proof.Machine

/-- What one command does to a block. -/
abbrev Effect (f : Form) := Host.Outcome (Block f) Fault Refusal

/-- What an effect on a block is for an instance: the form and the configuration stay (R2, R23). -/
def liftEffect {f : Form} (cfg : Config f) : Effect f → Host.Outcome State Fault Refusal
  | .next b => .next ⟨f, cfg, b⟩
  | .fault r => .fault r
  | .refused r => .refused r

/-- Run a command on the block of an instance. -/
def State.onBlock (s : State) (effect : Block s.form → Effect s.form) : Host.Outcome State Fault Refusal :=
  liftEffect s.config (effect s.block)

/-- A state with a fault record has no step (R88); any other goes on. -/
def Block.running {f : Form} (b : Block f) (effect : Effect f) : Effect f :=
  match b.fault with
  | some r => .fault (.halted r)
  | none => effect

/-- `raise Fault(code, cmd)`: write the fault record and nothing else (R85, R88). -/
def Block.raise {f : Form} (b : Block f) (code : FaultCode) (cmd : BitVec 32) : Effect f :=
  .next { b with fault := some ⟨code, cmd⟩ }

/-- `cidx <- cidx + 1`: the command completes (R19). -/
def Block.complete {f : Form} (b : Block f) : Effect f :=
  .next { b with cidx := b.cidx + 1 }

/-- `s <- v`: write all four lanes at once, which sets all four marks (R10, R14). -/
def Block.writeLanes {f : Form} (b : Block f) (v : LaneState f) : Block f :=
  { b with lanes := v.map some }

/-- `s[n] <- v`, which sets mark n (R10, R14, R77). -/
def Block.writeLane {f : Form} (b : Block f) (n : Lane) (v : Word f) : Block f :=
  { b with lanes := b.lanes.set n (some v) }

/-- `DOUT <- v` (R10, R15). -/
def Block.writeDout {f : Form} (b : Block f) (v : Word f) : Block f :=
  { b with dout := some v }

/-- Read all four lanes; `F_UNINIT` if one is unwritten, before any state change (R86). -/
def Block.readLanes {f : Form} (b : Block f) (cmd : BitVec 32) (use : LaneState f → Effect f) : Effect f :=
  match allWritten b.lanes with
  | some v => use v
  | none => b.raise .uninit cmd

/-- Read lane `n`; `F_UNINIT` if it is unwritten (R78, R86). -/
def Block.readLane {f : Form} (b : Block f) (cmd : BitVec 32) (n : Lane) (use : Word f → Effect f) : Effect f :=
  match b.lanes.get n with
  | some v => use v
  | none => b.raise .uninit cmd

/-- Read the data operand of the command on the port (R36). -/
def Block.readDin {f : Form} (b : Block f) (use : Word f → Effect f) : Effect f :=
  match b.din with
  | some v => use v
  | none => .refused .noCommand

end Sys2Proof.Machine
end

