-- ==== Sys2Proof/Machine/Generator.lean ====
section
/-! DEFINITION. The xoshiro++ generator and the capability constants: NEXT, RDMIN, RDMAX
(spec/40_generator.md R47 to R54). -/

namespace Sys2Proof.Machine

/-- The "++" output of a state (R47): `rotl(s0 + s3, R1) + s0`. -/
def laneOut {f : Form} (s : LaneState f) : Word f :=
  addW (rotlW (addW s.q0 s.q3) (outRotation f)) s.q0

/-- The state transition `step` (R48), as the rule's sequence of in-place updates. PRESUMED (log 7):
the order of the xors is the reference construction's. -/
def laneStep {f : Form} (s : LaneState f) : LaneState f :=
  let a := s.q0
  let b := s.q1
  let c := s.q2
  let d := s.q3
  let t := shlW b (shiftAmount f)
  let c := c ^^^ a
  let d := d ^^^ b
  let b := b ^^^ c
  let a := a ^^^ d
  let c := c ^^^ t
  let d := rotlW d (stateRotation f)
  ⟨a, b, c, d⟩

/-- The XOR over k = 0, 1, … while k·S < W of `shl_W(v, k·S)` (R49): it undoes `x ^ shl_W(x, S)`. -/
def undoXorShift {f : Form} (v : Word f) : Word f :=
  (List.range ((f.width + shiftAmount f - 1) / shiftAmount f)).foldl
    (fun acc k => acc ^^^ shlW v (k * shiftAmount f)) 0

/-- The inverse of the state transition, as R49 derives it. -/
def laneUnstep {f : Form} (u : LaneState f) : LaneState f :=
  let a := rotlW u.q3 (f.width - stateRotation f)
  let s0 := u.q0 ^^^ a
  let v := u.q1 ^^^ u.q2
  let s1 := undoXorShift v
  let s2 := u.q1 ^^^ s0 ^^^ s1
  let s3 := a ^^^ s1
  ⟨s0, s1, s2, s3⟩

/-- NEXT on a block (R51): the output is computed from the lanes before the update. -/
def nextEffect {f : Form} (b : Block f) : Effect f :=
  b.running <| b.readLanes (encode .next) fun v =>
    ((b.writeLanes (laneStep v)).writeDout (laneOut v)).complete

/-- NEXT (R51). -/
def execNext (s : State) : Host.Outcome State Fault Refusal := s.onBlock nextEffect

/-- RDMIN on a block (R53). -/
def rdminEffect {f : Form} (b : Block f) : Effect f := b.running (b.writeDout (minValue f)).complete

/-- RDMIN (R53). -/
def execRdmin (s : State) : Host.Outcome State Fault Refusal := s.onBlock rdminEffect

/-- RDMAX on a block (R54). -/
def rdmaxEffect {f : Form} (b : Block f) : Effect f := b.running (b.writeDout (maxValue f)).complete

/-- RDMAX (R54). -/
def execRdmax (s : State) : Host.Outcome State Fault Refusal := s.onBlock rdmaxEffect

end Sys2Proof.Machine
end

