-- ==== Sys2Proof/Machine/Jump.lean ====
section
/-! DEFINITION. The jump engine: JUMP and LJUMP (spec/41_jump.md R57 to R59). The accumulator, the
evolving state and the scan position live only inside one command (spec/10_state.md R18), so they
are values of `jumpPoly`, not fields of the state. -/

namespace Sys2Proof.Machine

/-- The engine's transient values: the accumulator and the evolving copy of the state (R18, R57). -/
structure JumpScan (f : Form) where
  acc : LaneState f
  cur : LaneState f
  deriving DecidableEq, Repr

/-- One coefficient bit (R57): fold the current state in if the bit is 1, then step regardless. -/
def JumpScan.bit {f : Form} (word : Word f) (j : JumpScan f) (b : Nat) : JumpScan f where
  acc := if word.getLsbD b then j.acc.xor j.cur else j.acc
  cur := laneStep j.cur

/-- One table word, bits 0 to W−1, least significant first (R57). -/
def JumpScan.word {f : Form} (j : JumpScan f) (word : Word f) : JumpScan f :=
  (List.range f.width).foldl (JumpScan.bit word) j

/-- The words of a table in index order (R57). -/
def tableWords {f : Form} (tab : Quad (Word f)) : List (Word f) := [tab.q0, tab.q1, tab.q2, tab.q3]

/-- `jumpPoly(s, tab)` (R57): from four zero lanes, scan every bit of the table; the evolving copy is
dropped at the end. -/
def jumpPoly {f : Form} (s : LaneState f) (tab : Quad (Word f)) : LaneState f :=
  ((tableWords tab).foldl JumpScan.word ⟨LaneState.zero f, s⟩).acc

/-- JUMP on a block (R58). DOUT is unchanged. -/
def jumpEffect {f : Form} (cfg : Config f) (b : Block f) : Effect f :=
  b.running <| b.readLanes (encode .jump) fun v =>
    (b.writeLanes (jumpPoly v cfg.jumpTable)).complete

/-- JUMP (R58). -/
def execJump (s : State) : Host.Outcome State Fault Refusal := s.onBlock (jumpEffect s.config)

/-- LJUMP on a block (R59). DOUT is unchanged. -/
def ljumpEffect {f : Form} (cfg : Config f) (b : Block f) : Effect f :=
  b.running <| b.readLanes (encode .ljump) fun v =>
    (b.writeLanes (jumpPoly v cfg.longJumpTable)).complete

/-- LJUMP (R59). -/
def execLjump (s : State) : Host.Outcome State Fault Refusal := s.onBlock (ljumpEffect s.config)

end Sys2Proof.Machine
end

