-- ==== Sys2Proof/Machine/LaneAccess.lean ====
section
/-! DEFINITION. Lane access: LDL and RDL (spec/43_state_access.md R77, R78). -/

namespace Sys2Proof.Machine

/-- LDL n on a block (R77): the value is written as given, with no check; the other lanes and DOUT
stay. -/
def ldlEffect {f : Form} (n : Lane) (b : Block f) : Effect f :=
  b.running <| b.readDin fun v => (b.writeLane n v).complete

/-- LDL n (R77). -/
def execLdl (n : Lane) (s : State) : Host.Outcome State Fault Refusal := s.onBlock (ldlEffect n)

/-- RDL n on a block (R78): only lane n need be written. -/
def rdlEffect {f : Form} (n : Lane) (b : Block f) : Effect f :=
  b.running <| b.readLane (encode (.rdl n)) n fun v => (b.writeDout v).complete

/-- RDL n (R78). -/
def execRdl (n : Lane) (s : State) : Host.Outcome State Fault Refusal := s.onBlock (rdlEffect n)

end Sys2Proof.Machine
end

