-- ==== Sys2Proof/Machine/Seed.lean ====
section
/-! DEFINITION. The splitmix seed expander: SEED (spec/42_seed.md R67 to R72). The running value lives
only inside the command (spec/10_state.md R18). -/

namespace Sys2Proof.Machine

/-- `expand(seed)` for an increment and a mixer (R68): four times, advance by GAMMA_W first and then mix;
lane 0 receives the first mixed value. -/
def expandWith {f : Form} (gamma : Word f) (mix : Word f → Word f) (seed : Word f) : LaneState f :=
  let x0 := addW seed gamma
  let x1 := addW x0 gamma
  let x2 := addW x1 gamma
  let x3 := addW x2 gamma
  ⟨mix x0, mix x1, mix x2, mix x3⟩

/-- `expand(seed)` of an instance's configuration (R6, R68). -/
def expand {f : Form} (cfg : Config f) (seed : Word f) : LaneState f := expandWith cfg.gamma cfg.mix seed

/-- SEED on a block (R72): no lane is read, and no zero check is made. DOUT is unchanged. -/
def seedEffect {f : Form} (cfg : Config f) (b : Block f) : Effect f :=
  b.running <| b.readDin fun seed => (b.writeLanes (expand cfg seed)).complete

/-- SEED (R72). -/
def execSeed (s : State) : Host.Outcome State Fault Refusal := s.onBlock (seedEffect s.config)

end Sys2Proof.Machine
end

