-- ==== Sys2Proof/Machine/Dispatch.lean ====
section
/-! DEFINITION. One arm per command (spec/30_encoding.md R39). -/

namespace Sys2Proof.Machine

def exec (i : Instr) (s : State) : Host.Outcome State Fault Refusal :=
  match i with
  | .next => Sys2Proof.Machine.execNext s
  | .jump => Sys2Proof.Machine.execJump s
  | .ljump => Sys2Proof.Machine.execLjump s
  | .seed => Sys2Proof.Machine.execSeed s
  | .ldl n => Sys2Proof.Machine.execLdl n s
  | .rdl n => Sys2Proof.Machine.execRdl n s
  | .rdmin => Sys2Proof.Machine.execRdmin s
  | .rdmax => Sys2Proof.Machine.execRdmax s

end Sys2Proof.Machine
end

