-- ==== Sys2Proof/Machine/Port.lean ====
section
/-! DEFINITION. The command port and the host's side of it: presenting a command, an illegal word,
placing a word where the next step takes it, and what the host can do between commands
(spec/20_memory.md R30; spec/60_exceptions.md R87, R97; spec/70_reset_and_hazards.md R98, R108). -/

namespace Sys2Proof.Machine

/-- The command on the port of a state. -/
def State.current (s : State) : Option (Command s.form) := s.block.current

/-- An illegal word on a block: it raises `F_ILLEGAL`, before any lane is read (R87, R89). -/
def illegalEffect {f : Form} (cmd : BitVec 32) (b : Block f) : Effect f :=
  b.running (b.raise .illegal cmd)

/-- An illegal word (R87). -/
def takeIllegal (cmd : BitVec 32) (s : State) : Host.Outcome State Fault Refusal :=
  s.onBlock (illegalEffect cmd)

/-- Taking the command on the port, whatever machine runs it: with a fault record there is no step (R88);
with no command on the port the block waits (R98, R104); an illegal word faults (R87); any other word runs
its command (R40). -/
def takeCommand {σ : Type} (fault : Option FaultRecord) (cmd : Option (BitVec 32))
    (illegal : BitVec 32 → Host.Outcome σ Fault Refusal) (run : Instr → Host.Outcome σ Fault Refusal) :
    Host.Outcome σ Fault Refusal :=
  match fault with
  | some r => .fault (.halted r)
  | none =>
    match cmd with
    | none => .refused .noCommand
    | some w =>
      match decode w with
      | none => illegal w
      | some i => run i

/-- The host's list with the command at position `k` replaced, or put there. A list shorter than `k`
is filled with the illegal idle word 0 (R41); no run reaches such a state. -/
def placeAt {f : Form} (program : List (Command f)) (k : Nat) (c : Command f) : List (Command f) :=
  program.take k ++ List.replicate (k - program.length) ⟨0, 0⟩ ++ c :: program.drop (k + 1)

/-- Put a command on the port: at position `cidx` of the host's list. -/
def Block.present {f : Form} (b : Block f) (c : Command f) : Block f :=
  { b with program := placeAt b.program b.cidx c }

/-- The host issues a command. It joins the end of the list, so an issue made while others are
outstanding is held, and is neither lost nor merged (R30, R97, R108). -/
def State.issue (s : State) (c : Command s.form) : State :=
  ⟨s.form, s.config, { s.block with program := s.block.program ++ [c] }⟩

/-- The host asserts reset (R97, R98). It may land between any two commands; one asserted during a
command leaves the same state, since reset overwrites everything the command could write. The form and
the configuration stay. -/
def State.assertReset (s : State) : State := State.resetOf s.config

/-- The host reads DOUT: the last value written, or no value (R15, R97). Reading changes nothing. -/
def State.readDout (s : State) : Option (Word s.form) := s.block.dout

/-- What an observer of the model sees: DOUT and the fault record (R96, R97). -/
def State.observe (s : State) : Option (Word s.form) × Option FaultRecord :=
  (s.block.dout, s.block.fault)

end Sys2Proof.Machine
end

