-- ==== Sys2Proof/Machine/Step.lean ====
section
/-! DEFINITION. One step: the block takes the command on its port and runs it to completion
(spec/20_memory.md R30, R31). -/

namespace Sys2Proof.Machine

/-- One command of an instance (R30, R31). -/
def step (s : State) : Host.Outcome State Fault Refusal :=
  takeCommand s.block.fault (s.current.map Command.cmd) (fun w => takeIllegal w s) (fun i => exec i s)

/-- The state with a command word on the port, DIN zero, in the opcode table's numbering of bits. It
stands for the host issuing the command (R97): there is no fetch (R33). -/
def State.withFetchWord (s : State) (nbits w : Nat) : State :=
  ⟨s.form, s.config, s.block.present ⟨BitVec.ofNat 32 (w % 2 ^ nbits), 0⟩⟩

end Sys2Proof.Machine
end

