-- ==== Sys2Proof/Machine/Assembly.lean ====
section
/-! DEFINITION. The assembly syntax and the three pseudo-instructions, expanded to commands before
issue (spec/30_encoding.md R45, R46). A pseudo-instruction is no command word and has no encoding
of its own, so it is no constructor of `Instr`. -/

namespace Sys2Proof.Machine

/-- One line of a program listing for an instance of form `f` (R45, R46). -/
inductive AsmLine (f : Form) where
  | next
  | jump
  | ljump
  /-- `SEED #v`. -/
  | seed (v : Word f)
  /-- `LDL n, #v`. -/
  | ldl (n : Lane) (v : Word f)
  /-- `RDL n`. -/
  | rdl (n : Lane)
  | rdmin
  | rdmax
  /-- `LDS #a, #b, #c, #d`: load a full state. -/
  | lds (a b c d : Word f)
  /-- `JUMPN k`. -/
  | jumpn (k : Nat)
  /-- `SKIP k`. -/
  | skip (k : Nat)
  deriving DecidableEq, Repr

/-- A command with its DIN. -/
def Command.ofInstr {f : Form} (i : Instr) (din : Word f) : Command f := ⟨encode i, din⟩

/-- The commands a line stands for (R45, R46). A don't-care DIN is written as 0. -/
def AsmLine.commands {f : Form} : AsmLine f → List (Command f)
  | .next => [Command.ofInstr .next 0]
  | .jump => [Command.ofInstr .jump 0]
  | .ljump => [Command.ofInstr .ljump 0]
  | .seed v => [Command.ofInstr .seed v]
  | .ldl n v => [Command.ofInstr (.ldl n) v]
  | .rdl n => [Command.ofInstr (.rdl n) 0]
  | .rdmin => [Command.ofInstr .rdmin 0]
  | .rdmax => [Command.ofInstr .rdmax 0]
  | .lds a b c d => [Command.ofInstr (.ldl 0) a, Command.ofInstr (.ldl 1) b, Command.ofInstr (.ldl 2) c, Command.ofInstr (.ldl 3) d]
  | .jumpn k => List.replicate k (Command.ofInstr .jump 0)
  | .skip k => List.replicate k (Command.ofInstr .next 0)

/-- A program listing as the command list the host issues (R19, R45). -/
def assembleListing {f : Form} (ls : List (AsmLine f)) : List (Command f) := ls.flatMap AsmLine.commands

/-- A value as the listing writes it: `#` and hex digits (R45), without leading zeros: DESIGN CHOICE
(log 17). -/
def hexText {f : Form} (v : Word f) : String := "#" ++ String.ofList (Nat.toDigits 16 v.toNat)

/-- The text of a line (R45, R46). The lane number and the count `k` of JUMPN and SKIP are written in decimal:
DESIGN CHOICE (log 17), as R45 fixes hex for a value alone and R46 fixes no base for `k`. -/
def AsmLine.text {f : Form} : AsmLine f → String
  | .next => "NEXT"
  | .jump => "JUMP"
  | .ljump => "LJUMP"
  | .seed v => "SEED " ++ hexText v
  | .ldl n v => "LDL " ++ toString n.val ++ ", " ++ hexText v
  | .rdl n => "RDL " ++ toString n.val
  | .rdmin => "RDMIN"
  | .rdmax => "RDMAX"
  | .lds a b c d => "LDS " ++ hexText a ++ ", " ++ hexText b ++ ", " ++ hexText c ++ ", " ++ hexText d
  | .jumpn k => "JUMPN " ++ toString k
  | .skip k => "SKIP " ++ toString k

end Sys2Proof.Machine
end

