-- ==== Sys2Proof/Machine/Importer.lean ====
section
/-! DEFINITION. The entropy importer's lane assembly: host-side functions at the block's boundary
(spec/43_state_access.md R80 to R84). The block sees only the LDL commands they end in. -/

namespace Sys2Proof.Machine

/-- `assemble(d1, d2)` for source words of N = W/2 bits (R80): the first draw is the low half, the
second the high half, each masked to N bits. -/
def assembleHalves (f : Form) (n d1 d2 : Nat) : Word f :=
  shlW (BitVec.ofNat f.width (d2 &&& (2 ^ n - 1))) n ||| BitVec.ofNat f.width (d1 &&& (2 ^ n - 1))

/-- One lane from the draws of a source of N-bit words, with the draws left over: two draws for
N = W/2 (R80), one for N ≥ W (R81). `none` for any other N, to which the source gives no rule (R82),
and where the draws run out. -/
def importLane (f : Form) (n : Nat) (draws : List Nat) : Option (Word f × List Nat) :=
  if f.width ≤ n then
    match draws with
    | d :: rest => some (BitVec.ofNat f.width d, rest)
    | [] => none
  else if 2 * n = f.width then
    match draws with
    | d1 :: d2 :: rest => some (assembleHalves f n d1 d2, rest)
    | _ => none
  else none

/-- The host's option `IMPORT_MIX` (R84), default off: re-mix an assembled lane by MIX_W. -/
def remixLane {f : Form} (cfg : Config f) (importMix : Bool) (v : Word f) : Word f :=
  if importMix then cfg.mix v else v

/-- The draws fill lane 0, then 1, 2 and 3, in draw order (R83). -/
def importLanes {f : Form} (cfg : Config f) (n : Nat) (draws : List Nat) (importMix : Bool := false) :
    Option (LaneState f) :=
  (importLane f n draws).bind fun p0 =>
  (importLane f n p0.2).bind fun p1 =>
  (importLane f n p1.2).bind fun p2 =>
  (importLane f n p2.2).map fun p3 =>
    (⟨p0.1, p1.1, p2.1, p3.1⟩ : LaneState f).map (remixLane cfg importMix)

/-- The commands an import issues: one LDL to each lane, in order (R83; R46's LDS). -/
def importCommands {f : Form} (cfg : Config f) (n : Nat) (draws : List Nat) (importMix : Bool := false) :
    Option (List (Command f)) :=
  (importLanes cfg n draws importMix).map fun v => (AsmLine.lds v.q0 v.q1 v.q2 v.q3).commands

end Sys2Proof.Machine
end

