-- ==== Sys2Proof/Machine/Instances.lean ====
section
/-! DEFINITION. Several instances side by side (spec/60_exceptions.md R94): each has its own state and
its own command port, and nothing is shared. The boot of a sub-stream
(spec/41_jump.md R66; spec/70_reset_and_hazards.md R101). -/

namespace Sys2Proof.Machine

/-- Instances in a row. The position is the host's own name for an instance: the block has none. -/
abbrev Instances := List State

/-- The outcome of one command of instance `k`, with the other instances as they were. `none`: there
is no such instance. -/
def Instances.stepAt (sys : Instances) (k : Nat) : Option (Host.Outcome Instances Fault Refusal) :=
  (sys[k]?).map fun s =>
    match step s with
    | .next t => .next (sys.set k t)
    | .fault r => .fault r
    | .refused r => .refused r

/-- The boot listing of instance `j` of a family of sub-streams (R66, R101): the common root seed, then
`j` JUMPs. -/
def subStreamBoot {f : Form} (root : Word f) (j : Nat) : List (Command f) :=
  assembleListing [.seed root, .jumpn j]

end Sys2Proof.Machine
end

