-- ==== Sys2Proof/Machine/Linear.lean ====
section
/-! DEFINITION. The state as a GF(2) vector and the matrix T of the state transition
(spec/00_scope.md R11, R12; spec/40_generator.md R49). No command computes with these: they are the
terms in which the laws of the jump are stated. -/

namespace Sys2Proof.Machine

/-- The packing of R12: state bit i·W + b is bit b of lane i. -/
def pack {f : Form} (s : LaneState f) : BitVec (f.width + (f.width + (f.width + f.width))) :=
  s.q3 ++ (s.q2 ++ (s.q1 ++ s.q0))

/-- The state with only packed bit `j` set: the vector e_j (R12; spec/95_test_vectors.md V0). -/
def unitState (f : Form) (j : Nat) : LaneState f where
  q0 := if j < f.width then BitVec.twoPow f.width j else 0
  q1 := if f.width ≤ j ∧ j < 2 * f.width then BitVec.twoPow f.width (j - f.width) else 0
  q2 := if 2 * f.width ≤ j ∧ j < 3 * f.width then BitVec.twoPow f.width (j - 2 * f.width) else 0
  q3 := if 3 * f.width ≤ j ∧ j < 4 * f.width then BitVec.twoPow f.width (j - 3 * f.width) else 0

/-- Column `j` of T: step(e_j) (R49, V0). -/
def columnT (f : Form) (j : Nat) : LaneState f := laneStep (unitState f j)

/-- T · s: the XOR of the columns of T that the packed bits of `s` select. -/
def applyT {f : Form} (s : LaneState f) : LaneState f :=
  (List.range (4 * f.width)).foldl
    (fun acc j => if (pack s).getLsbD j then acc.xor (columnT f j) else acc) (LaneState.zero f)

/-- Coefficient c_k of a table: c_(i·W+b) is bit b of word i (R57). -/
def coefficient {f : Form} (tab : Quad (Word f)) (k : Nat) : Bool := (pack tab).getLsbD k

/-- p(T) · s: the XOR of step^k(s) over the coefficients c_k that are 1 (R57). -/
def polyApply {f : Form} (s : LaneState f) (tab : Quad (Word f)) : LaneState f :=
  (List.range (4 * f.width)).foldl
    (fun acc k => if coefficient tab k then acc.xor (laneStep^[k] s) else acc) (LaneState.zero f)

end Sys2Proof.Machine
end

