-- ==== Sys2Proof/Machine/Parametric.lean ====
section
/-! DEFINITION. The machine that takes the form and the configuration as parameters (spec/00_scope.md R2,
R6; spec/10_state.md R23): its state is the block alone. One machine for each W, each pair of tables, each
increment and each mixer. `exec` and `step` run it on the block of an instance. -/

namespace Sys2Proof.Machine

/-- The effect of each command on a block, for an instance with configuration `cfg` (R39). -/
def Block.exec {f : Form} (b : Block f) (cfg : Config f) : Instr → Effect f
  | .next => nextEffect b
  | .jump => jumpEffect cfg b
  | .ljump => ljumpEffect cfg b
  | .seed => seedEffect cfg b
  | .ldl n => ldlEffect n b
  | .rdl n => rdlEffect n b
  | .rdmin => rdminEffect b
  | .rdmax => rdmaxEffect b

/-- One command of an instance with configuration `cfg` (R30, R31). -/
def Block.step {f : Form} (cfg : Config f) (b : Block f) : Effect f :=
  takeCommand b.fault (b.current.map Command.cmd) (fun w => illegalEffect w b) (fun i => b.exec cfg i)

/-- The machine of form `f` with configuration `cfg`: XPP128 and XPP256, each with its own reset (R2, R25). -/
def coreOf {f : Form} (cfg : Config f) : Host.Core where
  State := Block f
  Fault := Fault
  Refusal := Refusal
  step := Block.step cfg
  reset := Block.reset f

end Sys2Proof.Machine
end

