-- ==== Sys2Proof/Safety.lean ====
section
/-! DEFINITION. How a run ends and what counts as a safe state, in the terms the statements use
(spec/70_reset_and_hazards.md R104; spec/60_exceptions.md R88; spec/10_state.md R16). -/

namespace Sys2Proof.Machine

/-- Complete: every command of the list has completed, with no fault (R104). -/
abbrev State.complete (s : State) : Prop :=
  s.block.cidx = s.block.program.length ∧ s.block.fault = none

/-- Faulted: the fault record is set. A faulted run is terminal and never complete (R88, R104). -/
abbrev State.faulted (s : State) : Prop := s.block.fault.isSome = true

/-- The commands still outstanding. -/
def State.remaining (s : State) : Nat := s.block.program.length - s.block.cidx

/-- A command reads a lane that is unwritten (R86). -/
def readsUnwritten {f : Form} (i : Instr) (lanes : Quad (Option (Word f))) : Bool :=
  i.lanesRead.any fun n => (lanes.get n).isNone

/-- A fault record names the command that faulted and its cause: F_ILLEGAL exactly for a word that
spells no command, F_UNINIT exactly for a command that reads an unwritten lane (R85, R88 "faults are
precise"). -/
def faultPrecise {f : Form} (b : Block f) (r : FaultRecord) : Prop :=
  ∃ c, b.current = some c ∧ r.cmd = c.cmd ∧
    match r.code with
    | .illegal => decode c.cmd = none
    | .uninit => ∃ i, decode c.cmd = some i ∧ readsUnwritten i b.lanes = true

/-- The invariant of the machine: the command index stays within the host's list (R19, R104), and a
fault record is precise (R88). -/
def State.consistent (s : State) : Prop :=
  s.block.cidx ≤ s.block.program.length ∧
    ∀ r, s.block.fault = some r → faultPrecise s.block r

/-- The source's state invariant, "never observably all-zero after initialization" (R16): no full state
of all zero lanes. -/
def State.notAllZero (s : State) : Prop :=
  s.block.lanes ≠ (LaneState.zero s.form).map some

end Sys2Proof.Machine
end

