-- ==== Sys2Proof/Certificates/Slice0/Obligations.lean ====
section
/-! DEFINITION. The statements for the provers. Each docstring names the rule of spec/ it formalises.
`⟨f, cfg, b⟩ : State` is the instance of form `f` with configuration `cfg` and block `b`; every statement over
`f` covers XPP128 and XPP256, and every statement over `cfg` all tables, increments and mixers. -/

open Sys2Proof Sys2Proof.Machine

/-! ### Encoding -/

/-- A word decodes to a command exactly when it is that command's word (R39, R40): every command's
encoding decodes to it, with the lane operand at all four values, and no second word does. -/
def Obligations.DecodeIsExactInverseOfEncode : Prop :=
  ∀ (w : BitVec 32) (i : Instr), decode w = some i ↔ w = encode i

/-- The fourteen words of R39 decode to the commands the rule lists, written out as the rule has them. -/
def Obligations.OpcodeMapWordsDecode : Prop :=
  [0x00000001#32, 0x00000002#32, 0x00000003#32, 0x00000004#32, 0x00000007#32, 0x00000008#32].map decode =
      [some .next, some .jump, some .ljump, some .seed, some .rdmin, some .rdmax] ∧
    [0x00000005#32, 0x00000015#32, 0x00000025#32, 0x00000035#32].map decode =
      [some (.ldl 0), some (.ldl 1), some (.ldl 2), some (.ldl 3)] ∧
    [0x00000006#32, 0x00000016#32, 0x00000026#32, 0x00000036#32].map decode =
      [some (.rdl 0), some (.rdl 1), some (.rdl 2), some (.rdl 3)]

/-- Every word is one of the fourteen legal words or decodes to nothing (R42). -/
def Obligations.LegalWordsAreExactlyFourteen : Prop :=
  ∀ w : BitVec 32, (decode w).isSome = true ↔
    w ∈ [0x01#32, 0x02#32, 0x03#32, 0x04#32, 0x05#32, 0x15#32, 0x25#32, 0x35#32,
      0x06#32, 0x16#32, 0x26#32, 0x36#32, 0x07#32, 0x08#32]

/-- The words that decode are the words whose fields pass the three checks of `CmdFields.wellFormed`, the
complement of R41. -/
def Obligations.DecodableWordsAreTheWellFormedOnes : Prop :=
  ∀ w : BitVec 32, (decode w).isSome = (CmdFields.ofWord w).wellFormed

/-- R41: the illegal words are exactly the three classes the rule lists, the fields read off the number
itself (OP = w mod 16, LANE = w / 16 mod 4, RSV = w / 64); an illegal word on the port raises
F_ILLEGAL and changes nothing but the fault record; the word 0 is illegal. -/
def Obligations.IllegalWordsAreExactlyTheseAndRaiseIllegal : Prop :=
  (∀ w : BitVec 32, decode w = none ↔
    (w.toNat / 64 ≠ 0 ∨
      w.toNat % 16 ∈ [0x0, 0x9, 0xA, 0xB, 0xC, 0xD, 0xE, 0xF] ∨
      (w.toNat % 16 ∈ [0x1, 0x2, 0x3, 0x4, 0x7, 0x8] ∧ w.toNat / 16 % 4 ≠ 0))) ∧
  (∀ (f : Form) (cfg : Config f) (b : Block f) (c : Command f),
    b.fault = none → b.current = some c → decode c.cmd = none →
      step ⟨f, cfg, b⟩ = .next ⟨f, cfg, { b with fault := some ⟨.illegal, c.cmd⟩ }⟩) ∧
  decode 0x00000000#32 = none

/-! ### One step -/

/-- When the word on the port decodes to a command, a step is that command's meaning, with nothing
added around it (R19, R30, R31). -/
def Obligations.StepRunsTheDecodedCommand : Prop :=
  ∀ (s : State) (c : Command s.form) (i : Instr),
    s.block.fault = none → s.current = some c → decode c.cmd = some i → step s = exec i s

/-- With no command on the port and no fault, the step is refused, and so are the two commands that
read DIN. MODEL'S CHOICE of how a wait shows (log 8); R98 and R104 say that the block waits and that
a run ends there. -/
def Obligations.NoCommandNoStep : Prop :=
  ∀ s : State, s.block.fault = none → s.current = none →
    step s = .refused .noCommand ∧ exec .seed s = .refused .noCommand ∧
      ∀ n : Lane, exec (.ldl n) s = .refused .noCommand

/-- Every command on the port of an unfaulted block completes in one step, to a completed command or to a
fault (R104, R107), and what it does depends on the lanes and the command alone: two blocks with equal
lanes that take the same command end with equal lanes and equal fault records, and with equal DOUT
where the command writes it (R52, R76). -/
def Obligations.SameLanesAndCommandGiveSameEffect : Prop :=
  ∀ (f : Form) (cfg : Config f) (b c : Block f) (x : Command f),
    b.fault = none → c.fault = none → b.lanes = c.lanes → b.current = some x → c.current = some x →
      ∃ b' c' : Block f, step ⟨f, cfg, b⟩ = .next ⟨f, cfg, b'⟩ ∧ step ⟨f, cfg, c⟩ = .next ⟨f, cfg, c'⟩ ∧
        b'.lanes = c'.lanes ∧ b'.fault = c'.fault ∧
        (b'.fault = none → ∀ i, decode x.cmd = some i →
          i ∈ [Instr.next, .rdmin, .rdmax, .rdl 0, .rdl 1, .rdl 2, .rdl 3] → b'.dout = c'.dout)

/-- A command other than SEED and LDL, or an illegal word, does the same whatever DIN stands beside it
(R36): the two blocks after it differ in the host's list alone. -/
def Obligations.OtherCommandsIgnoreDin : Prop :=
  ∀ (f : Form) (cfg : Config f) (b : Block f) (w : BitVec 32) (d d' : Word f),
    b.fault = none → decode w ≠ some .seed → (∀ n : Lane, decode w ≠ some (.ldl n)) →
      ∃ b' : Block f, step ⟨f, cfg, b.present ⟨w, d⟩⟩ = .next ⟨f, cfg, b'⟩ ∧
        step ⟨f, cfg, b.present ⟨w, d'⟩⟩ = .next ⟨f, cfg, { b' with program := (b.present ⟨w, d'⟩).program }⟩

/-! ### NEXT and the generator -/

/-- R51: from four written lanes NEXT writes the output of the old lanes to DOUT and the stepped state
to the lanes, whatever DIN is; every other field but cidx stays. With a lane unwritten it raises
F_UNINIT. The rule's two worked values stand first. -/
def Obligations.NextOutputsOldStateThenSteps : Prop :=
  encode .next = 0x00000001#32 ∧
  laneOut (⟨0xFFFFFFFF#32, 0#32, 0#32, 1#32⟩ : LaneState .xpp128) = 0xFFFFFFFF#32 ∧
  (laneOut (⟨1#64, 2#64, 3#64, 4#64⟩ : LaneState .xpp256) = 0x0000000002800001#64 ∧
    laneStep (⟨1#64, 2#64, 3#64, 4#64⟩ : LaneState .xpp256) =
      ⟨0x7#64, 0x0#64, 0x40002#64, 0x0000c00000000000#64⟩) ∧
  ∀ (f : Form) (cfg : Config f) (b : Block f), b.fault = none →
    (∀ v : LaneState f, b.lanes = v.map some →
      exec .next ⟨f, cfg, b⟩ = .next ⟨f, cfg, { b with
        lanes := (laneStep v).map some, dout := some (laneOut v), cidx := b.cidx + 1 }⟩) ∧
    ((∃ n : Lane, b.lanes.get n = none) →
      exec .next ⟨f, cfg, b⟩ = .next ⟨f, cfg, { b with fault := some ⟨.uninit, 0x00000001#32⟩ }⟩)

/-- R47, in plain numbers: with x = (s0 + s3) mod 2^W, the output is the rotation of x by R1 plus s0,
mod 2^W, where R1 is 7 for W = 32 and 23 for W = 64. -/
def Obligations.OutputIsScrambledSum : Prop :=
  (∀ s : LaneState .xpp128,
    (laneOut s).toNat =
      ((s.q0.toNat + s.q3.toNat) % 2 ^ 32 * 2 ^ 7 % 2 ^ 32 +
        (s.q0.toNat + s.q3.toNat) % 2 ^ 32 / 2 ^ (32 - 7) + s.q0.toNat) % 2 ^ 32) ∧
  (∀ s : LaneState .xpp256,
    (laneOut s).toNat =
      ((s.q0.toNat + s.q3.toNat) % 2 ^ 64 * 2 ^ 23 % 2 ^ 64 +
        (s.q0.toNat + s.q3.toNat) % 2 ^ 64 / 2 ^ (64 - 23) + s.q0.toNat) % 2 ^ 64)

/-- The closed form that R48 derives for the state transition, with the amounts of R3 written out. -/
def Obligations.StepHasClosedForm : Prop :=
  (∀ s : LaneState .xpp128, laneStep s =
    ⟨s.q0 ^^^ s.q1 ^^^ s.q3, s.q0 ^^^ s.q1 ^^^ s.q2, s.q0 ^^^ s.q2 ^^^ (s.q1 <<< 9),
      (s.q1 ^^^ s.q3).rotateLeft 11⟩) ∧
  (∀ s : LaneState .xpp256, laneStep s =
    ⟨s.q0 ^^^ s.q1 ^^^ s.q3, s.q0 ^^^ s.q1 ^^^ s.q2, s.q0 ^^^ s.q2 ^^^ (s.q1 <<< 17),
      (s.q1 ^^^ s.q3).rotateLeft 45⟩)

/-- R49: the state transition is linear over GF(2) and invertible, with the inverse the rule gives; the
output function is not linear. -/
def Obligations.StepIsLinearAndInvertible : Prop :=
  ∀ f : Form,
    (∀ x y : LaneState f, laneStep (x.xor y) = (laneStep x).xor (laneStep y)) ∧
    (∀ s : LaneState f, laneUnstep (laneStep s) = s) ∧
    (∀ u : LaneState f, laneStep (laneUnstep u) = u) ∧
    (∃ x y : LaneState f, laneOut (x.xor y) ≠ laneOut x ^^^ laneOut y)

/-- R50: the all-zero state is a fixed point with output 0, and no other state ever reaches it. -/
def Obligations.ZeroStateIsAbsorbingAndUnreachable : Prop :=
  ∀ f : Form,
    laneStep (LaneState.zero f) = LaneState.zero f ∧ laneOut (LaneState.zero f) = 0 ∧
    ∀ s : LaneState f, s ≠ LaneState.zero f → ∀ n : Nat, laneStep^[n] s ≠ LaneState.zero f

/-- The state transition is multiplication by the matrix T whose column j is step(e_j), in the packing
of R12 (R11, R49). -/
def Obligations.StepIsTheMatrixT : Prop :=
  ∀ (f : Form) (s : LaneState f), laneStep s = applyT s

/-! ### RDMIN and RDMAX -/

/-- R53: RDMIN writes 0 to DOUT, at every point of a run and whatever lane is written; nothing else but
cidx changes. -/
def Obligations.RdminWritesZero : Prop :=
  encode .rdmin = 0x00000007#32 ∧
  ∀ (f : Form) (cfg : Config f) (b : Block f), b.fault = none →
    exec .rdmin ⟨f, cfg, b⟩ = .next ⟨f, cfg, { b with dout := some 0, cidx := b.cidx + 1 }⟩

/-- R54: RDMAX writes 2^W − 1 to DOUT, at every point of a run; nothing else but cidx changes. -/
def Obligations.RdmaxWritesAllOnes : Prop :=
  encode .rdmax = 0x00000008#32 ∧
  ∀ (f : Form) (cfg : Config f) (b : Block f), b.fault = none →
    exec .rdmax ⟨f, cfg, b⟩ =
      .next ⟨f, cfg, { b with dout := some (BitVec.ofNat f.width (2 ^ f.width - 1)), cidx := b.cidx + 1 }⟩

/-! ### The jump engine -/

/-- R58: from four written lanes JUMP replaces the lanes by jumpPoly with the instance's JUMP_TABLE_W, whose
default words are R60's; DOUT and all else but cidx stay. With a lane unwritten it raises F_UNINIT. -/
def Obligations.JumpReplacesLanesByJumpPoly : Prop :=
  encode .jump = 0x00000002#32 ∧
  (Config.default .xpp128).jumpTable = ⟨0x8764000b#32, 0xf542d2d3#32, 0x6fa035c3#32, 0x77f2db5b#32⟩ ∧
  (Config.default .xpp256).jumpTable = ⟨0x180ec6d33cfd0aba#64, 0xd5a61266f0c9392c#64,
    0xa9582618e03fc9aa#64, 0x39abdc4529b1661c#64⟩ ∧
  ∀ (f : Form) (cfg : Config f) (b : Block f), b.fault = none →
    (∀ v : LaneState f, b.lanes = v.map some →
      exec .jump ⟨f, cfg, b⟩ = .next ⟨f, cfg, { b with
        lanes := (jumpPoly v cfg.jumpTable).map some, cidx := b.cidx + 1 }⟩) ∧
    ((∃ n : Lane, b.lanes.get n = none) →
      exec .jump ⟨f, cfg, b⟩ = .next ⟨f, cfg, { b with fault := some ⟨.uninit, 0x00000002#32⟩ }⟩)

/-- R59: LJUMP, as JUMP with the instance's LONG_JUMP_TABLE_W, whose default words are R60's. -/
def Obligations.LjumpReplacesLanesByJumpPoly : Prop :=
  encode .ljump = 0x00000003#32 ∧
  (Config.default .xpp128).longJumpTable =
    ⟨0xb523952e#32, 0x0b6f099f#32, 0xccf5a0ef#32, 0x1c580662#32⟩ ∧
  (Config.default .xpp256).longJumpTable = ⟨0x76e15d3efefdcbbf#64, 0xc5004e441c522fb3#64,
    0x77710069854ee241#64, 0x39109bb02acbe635#64⟩ ∧
  ∀ (f : Form) (cfg : Config f) (b : Block f), b.fault = none →
    (∀ v : LaneState f, b.lanes = v.map some →
      exec .ljump ⟨f, cfg, b⟩ = .next ⟨f, cfg, { b with
        lanes := (jumpPoly v cfg.longJumpTable).map some, cidx := b.cidx + 1 }⟩) ∧
    ((∃ n : Lane, b.lanes.get n = none) →
      exec .ljump ⟨f, cfg, b⟩ = .next ⟨f, cfg, { b with fault := some ⟨.uninit, 0x00000003#32⟩ }⟩)

/-- The closed form that R57 derives: the scan of a table is p(T) · s, the XOR of step^k(s) over the
coefficients c_(i·W+b) = tab[i][b] that are 1. For every table. -/
def Obligations.JumpPolyIsPolynomialInStep : Prop :=
  ∀ (f : Form) (s : LaneState f) (tab : Quad (Word f)), jumpPoly s tab = polyApply s tab

/-- R61: a jump equals that many single steps, for every state: 2^64 and 2^96 for W = 32, 2^128 and
2^192 for W = 64. Route: over GF(2), x^(2^k) mod the characteristic polynomial of `laneStep` is the
table's polynomial; `laneStep^[n]` is linear and commutes with itself. -/
def Obligations.JumpEqualsManySteps : Prop :=
  (∀ s : LaneState .xpp128,
    jumpPoly s (Config.default .xpp128).jumpTable = laneStep^[2 ^ 64] s ∧
    jumpPoly s (Config.default .xpp128).longJumpTable = laneStep^[2 ^ 96] s) ∧
  (∀ s : LaneState .xpp256,
    jumpPoly s (Config.default .xpp256).jumpTable = laneStep^[2 ^ 128] s ∧
    jumpPoly s (Config.default .xpp256).longJumpTable = laneStep^[2 ^ 192] s)

/-- R62: for every table the jump commutes with N steps, and any two jumps commute. -/
def Obligations.JumpCommutesWithStepAndJump : Prop :=
  ∀ (f : Form) (s : LaneState f) (tab tab' : Quad (Word f)),
    (∀ n : Nat, jumpPoly (laneStep^[n] s) tab = laneStep^[n] (jumpPoly s tab)) ∧
    jumpPoly (jumpPoly s tab) tab' = jumpPoly (jumpPoly s tab') tab

/-- R63: every jump fixes the all-zero state; JUMP and LJUMP of a nonzero state are nonzero, although a
lane of the result may be zero. -/
def Obligations.JumpKeepsZeroAndNonzero : Prop :=
  ∀ f : Form,
    (∀ tab : Quad (Word f), jumpPoly (LaneState.zero f) tab = LaneState.zero f) ∧
    (∀ s : LaneState f, s ≠ LaneState.zero f →
      jumpPoly s (Config.default f).jumpTable ≠ LaneState.zero f ∧
      jumpPoly s (Config.default f).longJumpTable ≠ LaneState.zero f) ∧
    (∃ s : LaneState f, s ≠ LaneState.zero f ∧ (jumpPoly s (Config.default f).jumpTable).q0 = 0) ∧
    (∃ s : LaneState f, s ≠ LaneState.zero f ∧ (jumpPoly s (Config.default f).longJumpTable).q0 = 0)

/-- R64: JUMP and LJUMP map distinct states to distinct states. -/
def Obligations.JumpsAreInjective : Prop :=
  ∀ f : Form,
    Function.Injective (fun s : LaneState f => jumpPoly s (Config.default f).jumpTable) ∧
    Function.Injective (fun s : LaneState f => jumpPoly s (Config.default f).longJumpTable)

/-! ### The seed expander -/

/-- R72: SEED writes the expansion of DIN by the instance's configuration to all four lanes, whatever lanes are
written before it; DOUT and all else but cidx stay. Seed 0 is legal, and with the defaults the seed
−(i+1)·GAMMA_W gives lane i the value 0. -/
def Obligations.SeedWritesExpansionOfDin : Prop :=
  encode .seed = 0x00000004#32 ∧
  (∀ (f : Form) (cfg : Config f) (b : Block f) (c : Command f), b.fault = none → b.current = some c →
    exec .seed ⟨f, cfg, b⟩ = .next ⟨f, cfg, { b with
      lanes := (expand cfg c.din).map some, cidx := b.cidx + 1 }⟩) ∧
  (∀ (f : Form) (n : Lane),
    (expand (Config.default f)
      (-(BitVec.ofNat f.width (n.val + 1) * (Config.default f).gamma))).get n = 0) ∧
  expand (Config.default .xpp256) 0 =
    ⟨0xe220a8397b1dcdaf#64, 0x6e789e6aa1b965f4#64, 0x06c45d188009454f#64, 0xf88bb8a8724c81ec#64⟩

/-- R68, in closed form: lane i is MIX_W(seed + (i+1)·GAMMA_W mod 2^W). For every configuration, and for every
function in the mixer's place. -/
def Obligations.ExpandMixesSeedPlusMultiples : Prop :=
  (∀ (f : Form) (gamma : Word f) (mix : Word f → Word f) (seed : Word f) (n : Lane),
    (expandWith gamma mix seed).get n =
      mix (BitVec.ofNat f.width ((seed.toNat + (n.val + 1) * gamma.toNat) % 2 ^ f.width))) ∧
  (∀ (f : Form) (cfg : Config f) (seed : Word f) (n : Lane),
    (expand cfg seed).get n =
      cfg.mix (BitVec.ofNat f.width ((seed.toNat + (n.val + 1) * cfg.gamma.toNat) % 2 ^ f.width)))

/-- The default mixers compute the formulas of R70 (Mix13) and R71 (triple32), and the default increments are
R69's. PRESUMED values (logs 3 to 5). -/
def Obligations.DefaultMixersAreMix13AndTriple32 : Prop :=
  (∀ z : Word .xpp256, (Config.default .xpp256).mix z =
    let z1 := (z ^^^ (z >>> 30)) * 0xbf58476d1ce4e5b9#64
    let z2 := (z1 ^^^ (z1 >>> 27)) * 0x94d049bb133111eb#64
    z2 ^^^ (z2 >>> 31)) ∧
  (∀ z : Word .xpp128, (Config.default .xpp128).mix z =
    let z1 := (z ^^^ (z >>> 17)) * 0xed5ad4bb#32
    let z2 := (z1 ^^^ (z1 >>> 11)) * 0xac4c1b51#32
    let z3 := (z2 ^^^ (z2 >>> 15)) * 0x31848bab#32
    z3 ^^^ (z3 >>> 14)) ∧
  (Config.default .xpp256).gamma = 0x9e3779b97f4a7c15#64 ∧ (Config.default .xpp128).gamma = 0x9e3779b9#32

/-- R73: the mixers of R70 and R71 are bijections on W-bit values, and each maps 0 to 0. -/
def Obligations.MixersAreBijectionsFixingZero : Prop :=
  ∀ f : Form, Function.Bijective (Config.default f).mix ∧ (Config.default f).mix 0 = 0

/-- R74: for every seed the four lanes are pairwise distinct and not all zero, and lane i is zero exactly
for the seed −(i+1)·GAMMA_W. For the default configuration, for every other with an odd increment and a
bijective mixer that fixes 0, and for every such function in the mixer's place. -/
def Obligations.SeedIsNeverDegenerate : Prop :=
  ∀ (f : Form) (gamma : Word f) (mix : Word f → Word f),
    ((gamma = (Config.default f).gamma ∧ mix = (Config.default f).mix) ∨
      (gamma.getLsbD 0 = true ∧ Function.Bijective mix ∧ mix 0 = 0)) →
    ∀ seed : Word f,
      (∀ m n : Lane, m ≠ n → (expandWith gamma mix seed).get m ≠ (expandWith gamma mix seed).get n) ∧
      expandWith gamma mix seed ≠ LaneState.zero f ∧
      (∀ n : Lane, (expandWith gamma mix seed).get n = 0 ↔
        seed = -(BitVec.ofNat f.width (n.val + 1) * gamma)) ∧
      (∀ cfg : Config f, cfg.gamma = gamma → cfg.mix = mix → expand cfg seed = expandWith gamma mix seed)

/-! ### Lane access -/

/-- R77: LDL n writes DIN to lane n, sets its mark, and changes nothing else but cidx. It is legal in every
unfaulted state, and every value is written as given, the last zero of an all-zero state included. -/
def Obligations.LdlWritesOneLane : Prop :=
  ∀ n : Lane, encode (.ldl n) = 0x00000005#32 ||| (BitVec.ofNat 32 n.val <<< 4) ∧
  ∀ (f : Form) (cfg : Config f) (b : Block f) (c : Command f), b.fault = none → b.current = some c →
    ∃ lanes : Quad (Option (Word f)),
      exec (.ldl n) ⟨f, cfg, b⟩ = .next ⟨f, cfg, { b with lanes := lanes, cidx := b.cidx + 1 }⟩ ∧
      lanes.get n = some c.din ∧ (∀ m : Lane, m ≠ n → lanes.get m = b.lanes.get m)

/-- R78: RDL n writes lane n to DOUT and changes nothing else but cidx, whichever other lanes are
unwritten; with lane n unwritten it raises F_UNINIT. -/
def Obligations.RdlReadsOneLane : Prop :=
  ∀ n : Lane, encode (.rdl n) = 0x00000006#32 ||| (BitVec.ofNat 32 n.val <<< 4) ∧
  ∀ (f : Form) (cfg : Config f) (b : Block f), b.fault = none →
    (∀ v : Word f, b.lanes.get n = some v →
      exec (.rdl n) ⟨f, cfg, b⟩ = .next ⟨f, cfg, { b with dout := some v, cidx := b.cidx + 1 }⟩) ∧
    (b.lanes.get n = none →
      exec (.rdl n) ⟨f, cfg, b⟩ = .next ⟨f, cfg, { b with
        fault := some ⟨.uninit, 0x00000006#32 ||| (BitVec.ofNat 32 n.val <<< 4)⟩ }⟩)

/-- R79: four LDLs to the four lanes, in any order, load a full state: all marks are set and each lane holds
its DIN. -/
def Obligations.FourLdlsInAnyOrderLoadAFullState : Prop :=
  ∀ (f : Form) (cfg : Config f) (b : Block f) (n0 n1 n2 n3 : Lane) (v0 v1 v2 v3 : Word f) (rest : List (Command f)),
    b.fault = none → [n0, n1, n2, n3].Nodup →
    b.program.drop b.cidx = ⟨encode (.ldl n0), v0⟩ :: ⟨encode (.ldl n1), v1⟩ ::
      ⟨encode (.ldl n2), v2⟩ :: ⟨encode (.ldl n3), v3⟩ :: rest →
    ∃ v : LaneState f,
      Host.Core.run Sys2Proof.core 4 (⟨f, cfg, b⟩ : State) =
        .next (⟨f, cfg, { b with lanes := v.map some, cidx := b.cidx + 4 }⟩ : State) ∧
      v.get n0 = v0 ∧ v.get n1 = v1 ∧ v.get n2 = v2 ∧ v.get n3 = v3

/-! ### Faults -/

/-- R86: NEXT, JUMP and LJUMP check all four marks and RDL n checks mark n only; an unwritten lane among
those raises F_UNINIT with the command's own word, before any state change; RDL n does not fault for
another lane that is unwritten. -/
def Obligations.UnwrittenLaneRaisesUninit : Prop :=
  ∀ (f : Form) (cfg : Config f) (b : Block f) (n : Lane), b.fault = none →
    (b.lanes.get n = none →
      ∀ i : Instr, i ∈ [Instr.next, .jump, .ljump, .rdl n] →
        exec i ⟨f, cfg, b⟩ = .next ⟨f, cfg, { b with fault := some ⟨.uninit, encode i⟩ }⟩) ∧
    (∀ m : Lane, m ≠ n → b.lanes.get m = none → ∀ v : Word f, b.lanes.get n = some v →
      exec (.rdl n) ⟨f, cfg, b⟩ = .next ⟨f, cfg, { b with dout := some v, cidx := b.cidx + 1 }⟩)

/-- R89: a command reports at most one fault; an illegal word on the port of an unfaulted block reports
F_ILLEGAL, whatever lanes are written; a legal one can report only F_UNINIT. The record holds the command
word on the port (R85). -/
def Obligations.IllegalTakesPriorityOverUninit : Prop :=
  ∀ (f : Form) (cfg : Config f) (b : Block f) (c : Command f), b.fault = none → b.current = some c →
    (decode c.cmd = none →
      ∃ b' : Block f, step ⟨f, cfg, b⟩ = .next ⟨f, cfg, b'⟩ ∧ b'.fault = some ⟨.illegal, c.cmd⟩) ∧
    (decode c.cmd ≠ none → ∃ b' : Block f, step ⟨f, cfg, b⟩ = .next ⟨f, cfg, b'⟩ ∧
      ∀ r : FaultRecord, b'.fault = some r → r = ⟨.uninit, c.cmd⟩)

/-- R85: the codes are 1 and 2; SEED, LDL, RDMIN and RDMAX never fault; NEXT, JUMP, LJUMP and RDL record only
F_UNINIT, and only when they read an unwritten lane. -/
def Obligations.OnlyReadsOfUnwrittenLanesFault : Prop :=
  FaultCode.illegal.number = 1 ∧ FaultCode.uninit.number = 2 ∧
  ∀ (f : Form) (cfg : Config f) (b b' : Block f) (i : Instr) (r : FaultRecord),
    exec i ⟨f, cfg, b⟩ = .next ⟨f, cfg, b'⟩ → b'.fault = some r →
      r = ⟨.uninit, encode i⟩ ∧
        ((i ∈ [Instr.next, .jump, .ljump] ∧ ∃ n : Lane, b.lanes.get n = none) ∨
          ∃ n : Lane, i = .rdl n ∧ b.lanes.get n = none)

/-- R88: a step that faults writes the fault record and nothing else, and the record names the command on the
port; a faulted state is terminal, for `step` and for every meaning; it is never complete; reset
clears the record. -/
def Obligations.FaultsArePreciseAndTerminal : Prop :=
  (∀ (f : Form) (cfg : Config f) (b : Block f) (t : State) (r : FaultRecord),
    step ⟨f, cfg, b⟩ = .next t → t.block.fault = some r →
      t = ⟨f, cfg, { b with fault := some r }⟩ ∧ ∃ c, b.current = some c ∧ r.cmd = c.cmd) ∧
  (∀ (s : State) (r : FaultRecord), s.block.fault = some r →
    step s = .fault (.halted r) ∧ (∀ i : Instr, exec i s = .fault (.halted r)) ∧ ¬ s.complete ∧
      s.assertReset.block.fault = none)

/-! ### Frames and whole-machine rules -/

/-- What a completed command leaves alone, for every command (R13, R15, R19, R31): the form, the host's list;
each lane but those R13 lists as written (NEXT, JUMP, LJUMP, SEED: all four; LDL n: lane n; RDL, RDMIN,
RDMAX: none); DOUT but for NEXT, RDL, RDMIN, RDMAX. A faulting command leaves all of it, and cidx. -/
def Obligations.CommandFrame : Prop :=
  ∀ (f : Form) (cfg : Config f) (b : Block f) (i : Instr) (t : State), exec i ⟨f, cfg, b⟩ = .next t →
    ∃ b' : Block f, t = ⟨f, cfg, b'⟩ ∧ b'.program = b.program ∧
      (b'.fault ≠ none → b'.lanes = b.lanes ∧ b'.dout = b.dout ∧ b'.cidx = b.cidx) ∧
      (b'.fault = none → b'.cidx = b.cidx + 1 ∧
        (i ∈ [Instr.rdmin, .rdmax] ∨ (∃ n, i = .rdl n) → b'.lanes = b.lanes) ∧
        (∀ n, i = .ldl n → ∀ m, m ≠ n → b'.lanes.get m = b.lanes.get m) ∧
        (i ∈ [Instr.jump, .ljump, .seed] ∨ (∃ n, i = .ldl n) → b'.dout = b.dout))

/-- The model's operand tables say what R13, R36 and R39 list, of every completed command: the lanes it reads
hold values before it, the lanes it writes hold values after it and the others stay, DOUT is written or
stays, and a command that reads DIN has one beside it. -/
def Obligations.OperandTablesDescribeEveryCommand : Prop :=
  ∀ (f : Form) (cfg : Config f) (b b' : Block f) (i : Instr), exec i ⟨f, cfg, b⟩ = .next ⟨f, cfg, b'⟩ → b'.fault = none →
    (∀ n ∈ i.lanesRead, b.init n = true) ∧
    (∀ n ∈ i.lanesWritten, b'.init n = true) ∧
    (∀ n, n ∉ i.lanesWritten → b'.lanes.get n = b.lanes.get n) ∧
    (i.writesDout = true → b'.dout.isSome = true) ∧
    (i.writesDout = false → b'.dout = b.dout) ∧
    (i.readsDin = true → b.din.isSome = true)

/-- R14: reset clears the four marks; LDL sets the mark of its lane; SEED, NEXT, JUMP and LJUMP set all
four; no step clears a mark. (That a read of an unmarked lane faults is `UnwrittenLaneRaisesUninit`.) -/
def Obligations.WrittenMarksOnlyGrow : Prop :=
  (∀ (f : Form) (n : Lane), (Block.reset f).init n = false) ∧
  (∀ (f : Form) (cfg : Config f) (b b' : Block f) (i : Instr), exec i ⟨f, cfg, b⟩ = .next ⟨f, cfg, b'⟩ → b'.fault = none →
    (i ∈ [Instr.seed, .next, .jump, .ljump] → ∀ n : Lane, b'.init n = true) ∧
    (∀ n : Lane, i = .ldl n → b'.init n = true)) ∧
  (∀ (f : Form) (cfg : Config f) (b b' : Block f), step ⟨f, cfg, b⟩ = .next ⟨f, cfg, b'⟩ →
    ∀ n : Lane, b.init n = true → b'.init n = true)

/-- R15: DOUT is unwritten at reset; a completed NEXT, RDL, RDMIN or RDMAX leaves it written; JUMP, LJUMP, SEED
and LDL leave it unchanged; the host reads its content, or no value. -/
def Obligations.DoutIsWrittenByReadsOnly : Prop :=
  (∀ (f : Form) (cfg : Config f), (State.resetOf cfg).readDout = none) ∧
  (∀ (f : Form) (cfg : Config f) (b b' : Block f) (i : Instr), exec i ⟨f, cfg, b⟩ = .next ⟨f, cfg, b'⟩ → b'.fault = none →
    (i ∈ [Instr.next, .rdmin, .rdmax] ∨ (∃ n, i = .rdl n) →
      ∃ v : Word f, State.readDout ⟨f, cfg, b'⟩ = some v) ∧
    (i ∈ [Instr.jump, .ljump, .seed] ∨ (∃ n, i = .ldl n) →
      State.readDout ⟨f, cfg, b'⟩ = State.readDout ⟨f, cfg, b⟩))

/-- R19: cidx is 0 at the start; a completed command advances it by exactly 1, a faulting one not at all; no
command changes the host's list. -/
def Obligations.CommandIndexAdvancesByOne : Prop :=
  (∀ (f : Form) (cfg : Config f), (State.resetOf cfg).block.cidx = 0) ∧
  (∀ (f : Form) (cfg : Config f) (b b' : Block f), step ⟨f, cfg, b⟩ = .next ⟨f, cfg, b'⟩ →
    b'.program = b.program ∧ (b'.fault = none → b'.cidx = b.cidx + 1) ∧
    (b'.fault ≠ none → b'.cidx = b.cidx))

/-- R2 and R23: no command changes W or any field of the configuration, and neither does reset (R98). -/
def Obligations.NoCommandChangesFormOrConfig : Prop :=
  ∀ (f : Form) (cfg : Config f) (b : Block f),
    (∀ t : State, step ⟨f, cfg, b⟩ = .next t → ∃ b' : Block f, t = ⟨f, cfg, b'⟩) ∧
    (∀ (i : Instr) (t : State), exec i ⟨f, cfg, b⟩ = .next t → ∃ b' : Block f, t = ⟨f, cfg, b'⟩) ∧
    State.assertReset ⟨f, cfg, b⟩ = ⟨f, cfg, Block.reset f⟩

/-- A step of an instance is a step of the machine that takes the form and the configuration as parameters
(R2, R6): `coreOf cfg` on the block, for every form and every configuration; so for every command, and for
every number of steps. -/
def Obligations.InstanceRunsTheParametricMachine : Prop :=
  ∀ (f : Form) (cfg : Config f) (b : Block f),
    step ⟨f, cfg, b⟩ = liftEffect cfg (b.step cfg) ∧
    (∀ i : Instr, exec i ⟨f, cfg, b⟩ = liftEffect cfg (b.exec cfg i)) ∧
    ∀ k : Nat, Host.Core.run Sys2Proof.core k (⟨f, cfg, b⟩ : State) =
      liftEffect cfg (Host.Core.run (coreOf cfg) k b)

/-- A run from any state whose index is within the host's list ends within as many steps as commands are
outstanding, complete or faulted (R104, R107). -/
def Obligations.RunEndsCompleteOrFaulted : Prop :=
  ∀ s : State, s.block.cidx ≤ s.block.program.length → s.block.fault = none →
    ∃ k : Nat, k ≤ s.remaining ∧ ∃ t : State,
      Host.Core.run Sys2Proof.core k s = .next t ∧ (t.complete ∨ t.faulted)

/-! ### Invariants -/

/-- Every step keeps the machine consistent: cidx within the host's list (R19, R104), and a fault record
that names the command on the port and its true cause (R85, R88). -/
def Obligations.StepKeepsConsistent : Prop :=
  ∀ s t : State, s.consistent → step s = .next t → t.consistent

/-- The reset state of either form is consistent (R25), and stays so as the host issues commands. -/
def Obligations.ResetAndIssueAreConsistent : Prop :=
  (∀ (f : Form) (cfg : Config f), (State.resetOf cfg).consistent) ∧
  (∀ (s : State) (c : Command s.form), s.consistent → (s.issue c).consistent)

/-- The source's invariant (R16), for the default configuration: a step of any command but LDL never makes the
state all-zero, and SEED ends in a state that is not all-zero wherever it started. Only the LDL path, the
host's duty, can break it. -/
def Obligations.StepsButLdlKeepStateNonzero : Prop :=
  (∀ (s t : State) (c : Command s.form), s.config = Config.default s.form → s.notAllZero →
    s.current = some c → (∀ n : Lane, decode c.cmd ≠ some (.ldl n)) → step s = .next t → t.notAllZero) ∧
  (∀ s t : State, s.config = Config.default s.form → exec .seed s = .next t → t.notAllZero)

/-! ### Reset and the host -/

/-- R25: every piece of state at the value the rule lists, for both forms; the tables are R60's and MIN and MAX
are 0 and 2^W − 1. The empty host's list is the model's own (log 8). -/
def Obligations.ResetStateIsAsListed : Prop :=
  ∀ f : Form,
    (∀ n : Lane, (Block.reset f).lanes.get n = none ∧ (Block.reset f).init n = false) ∧
    (Block.reset f).dout = none ∧ (Block.reset f).fault = none ∧ (Block.reset f).cidx = 0 ∧
    (Config.default f).jumpTable = defaultJumpTable f ∧
    (Config.default f).longJumpTable = defaultLongJumpTable f ∧
    (minValue f).toNat = 0 ∧ (maxValue f).toNat = 2 ^ f.width - 1

/-- Reset may be asserted in any state and gives the reset state of the same form and configuration (R98), a
reset asserted instead of a step included. -/
def Obligations.ResetOverwritesEverything : Prop :=
  ∀ (s t : State), (step s = .next t → t.assertReset = s.assertReset) ∧
    s.assertReset = State.resetOf s.config

/-- A command issued while others are outstanding is held (R30, R97, R108): every command of the list keeps its
position, the new one stands after them all and the list is longer by exactly one, so the command on the
port stays; with none outstanding the new one is on the port. That the held commands are a list in the state
is the model's choice (log 8). -/
def Obligations.IssuedCommandsAreHeldInOrder : Prop :=
  ∀ (f : Form) (cfg : Config f) (b : Block f) (c : Command f),
    (∀ (k : Nat) (x : Command f), b.program[k]? = some x →
      (State.issue ⟨f, cfg, b⟩ c).block.program[k]? = some x) ∧
    (State.issue ⟨f, cfg, b⟩ c).block.program.length = b.program.length + 1 ∧
    (State.issue ⟨f, cfg, b⟩ c).block.cidx = b.cidx ∧
    (∀ x, b.current = some x → (State.issue ⟨f, cfg, b⟩ c).current = some x) ∧
    (b.cidx = b.program.length → (State.issue ⟨f, cfg, b⟩ c).current = some c) ∧
    (State.issue ⟨f, cfg, b⟩ c).block.program.getLast? = some c

/-- R94: one instance's command leaves every other instance as it was. -/
def Obligations.InstancesShareNothing : Prop :=
  ∀ (sys sys' : Instances) (k : Nat), sys.stepAt k = some (.next sys') →
    sys'.length = sys.length ∧ (∀ j, j ≠ k → sys'[j]? = sys[j]?) ∧
      ∃ s t : State, sys[k]? = some s ∧ sys'[k]? = some t ∧ step s = .next t

/-- R46: there are exactly three pseudo-instructions, since every other line is one command (R45), and they
expand to the commands the rule lists. -/
def Obligations.PseudoInstructionsExpandAsListed : Prop :=
  (∀ (f : Form) (l : AsmLine f),
    (∃ (i : Instr) (din : Word f), l.commands = [⟨encode i, din⟩] ∧
      ∀ k : Nat, l ≠ .jumpn k ∧ l ≠ .skip k) ∨
    (∃ a b c d, l = .lds a b c d) ∨ (∃ k, l = .jumpn k) ∨ (∃ k, l = .skip k)) ∧
  ∀ (f : Form) (a b c d : Word f) (k : Nat),
    (AsmLine.lds a b c d).commands =
      [⟨0x00000005#32, a⟩, ⟨0x00000015#32, b⟩, ⟨0x00000025#32, c⟩, ⟨0x00000035#32, d⟩] ∧
    (AsmLine.jumpn k : AsmLine f).commands = List.replicate k ⟨0x00000002#32, 0⟩ ∧
    (AsmLine.skip k : AsmLine f).commands = List.replicate k ⟨0x00000001#32, 0⟩

/-- R80: for N = W/2 the first draw, masked to N bits, is the low half of the lane and the second the high
half; the source's example, 0x1234 then 0x5678, is 0x56781234. -/
def Obligations.ImporterAssemblesLowHalfFirst : Prop :=
  (∀ (f : Form) (n d1 d2 : Nat) (rest : List Nat), 2 * n = f.width →
    ∃ v : Word f, importLane f n (d1 :: d2 :: rest) = some (v, rest) ∧
      v.toNat = d2 % 2 ^ n * 2 ^ n + d1 % 2 ^ n) ∧
  assembleHalves .xpp128 16 0x1234 0x5678 = 0x56781234#32

/-- R81: for N ≥ W a lane is one draw mod 2^W. For N < W with N ≠ W/2, where R82 leaves the assembly out, the
model gives no lane: MODEL'S CHOICE (log 16). -/
def Obligations.ImporterTruncatesWideDrawsAndOmitsOthers : Prop :=
  (∀ (f : Form) (n d : Nat) (rest : List Nat), f.width ≤ n →
    ∃ v : Word f, importLane f n (d :: rest) = some (v, rest) ∧ v.toNat = d % 2 ^ f.width) ∧
  (∀ (f : Form) (n : Nat) (draws : List Nat), n < f.width → 2 * n ≠ f.width →
    importLane f n draws = none)

/-- R83: the import writes lanes 0 to 3 in draw order, each by its LDL; for N = W/2 it takes eight draws,
two to a lane, and for N ≥ W one draw to a lane. -/
def Obligations.ImportIssuesLdlsInDrawOrder : Prop :=
  ∀ (f : Form) (cfg : Config f) (n d1 d2 d3 d4 d5 d6 d7 d8 : Nat),
    (2 * n = f.width →
      importCommands cfg n [d1, d2, d3, d4, d5, d6, d7, d8] =
        some [⟨encode (.ldl 0), assembleHalves f n d1 d2⟩, ⟨encode (.ldl 1), assembleHalves f n d3 d4⟩,
          ⟨encode (.ldl 2), assembleHalves f n d5 d6⟩, ⟨encode (.ldl 3), assembleHalves f n d7 d8⟩]) ∧
    (f.width ≤ n →
      importCommands cfg n [d1, d2, d3, d4] =
        some [⟨encode (.ldl 0), BitVec.ofNat f.width d1⟩, ⟨encode (.ldl 1), BitVec.ofNat f.width d2⟩,
          ⟨encode (.ldl 2), BitVec.ofNat f.width d3⟩, ⟨encode (.ldl 3), BitVec.ofNat f.width d4⟩])
end

