-- ==== Sys2Proof/Laws/Decode.lean ====
section
/-! SUPPORT. A command word and its fields determine each other (spec/30_encoding.md R35). -/

namespace Sys2Proof

/-- The number of a word is RSV·64 + LANE·16 + OP. -/
theorem CmdFields.toWord_toNat (c : CmdFields) :
    c.toWord.toNat = c.rsv.toNat * 64 + c.lane.toNat * 16 + c.op.toNat := by
  refine (BitVec.toNat_append (c.rsv ++ c.lane) c.op).trans ?_
  rw [BitVec.toNat_append, ← Nat.shiftLeft_add_eq_or_of_lt (by omega),
    ← Nat.shiftLeft_add_eq_or_of_lt (by omega)]
  simp [Nat.shiftLeft_eq]
  omega

/-- Laying fields out and splitting the word gives the fields back. -/
@[simp] theorem CmdFields.ofWord_toWord (c : CmdFields) : CmdFields.ofWord c.toWord = c := by
  obtain ⟨rsv, lane, op⟩ := c
  simp only [CmdFields.ofWord, CmdFields.mk.injEq]
  refine ⟨?_, ?_, ?_⟩ <;> apply BitVec.eq_of_toNat_eq <;>
    rw [BitVec.extractLsb'_toNat, CmdFields.toWord_toNat] <;>
    simp [Nat.shiftRight_eq_div_pow] <;> omega

/-- Splitting a word and laying its fields out gives the word back. -/
@[simp] theorem CmdFields.toWord_ofWord (w : BitVec 32) : (CmdFields.ofWord w).toWord = w := by
  apply BitVec.eq_of_toNat_eq
  rw [CmdFields.toWord_toNat]
  simp [CmdFields.ofWord, BitVec.extractLsb'_toNat, Nat.shiftRight_eq_div_pow]
  omega

end Sys2Proof
end

