-- ==== Sys2Proof/Laws/Quad.lean ====
section
/-! SUPPORT. The small lemmas of quadruples and of lane-wise XOR. -/

namespace Sys2Proof

variable {α β : Type}

@[simp] theorem Quad.get_zero (q : Quad α) : q.get 0 = q.q0 := rfl
@[simp] theorem Quad.get_one (q : Quad α) : q.get 1 = q.q1 := rfl
@[simp] theorem Quad.get_two (q : Quad α) : q.get 2 = q.q2 := rfl
@[simp] theorem Quad.get_three (q : Quad α) : q.get 3 = q.q3 := rfl

/-- A quadruple is determined by its four entries. -/
theorem Quad.ext_get {p q : Quad α} (h : ∀ n, p.get n = q.get n) : p = q := by
  obtain ⟨p0, p1, p2, p3⟩ := p
  obtain ⟨q0, q1, q2, q3⟩ := q
  have h0 : p0 = q0 := h 0
  have h1 : p1 = q1 := h 1
  have h2 : p2 = q2 := h 2
  have h3 : p3 = q3 := h 3
  rw [h0, h1, h2, h3]

@[simp] theorem Quad.get_set_self (q : Quad α) (n : Lane) (v : α) : (q.set n v).get n = v := by
  fin_cases n <;> rfl

@[simp] theorem Quad.get_set_of_ne (q : Quad α) {m n : Lane} (v : α) (h : m ≠ n) :
    (q.set n v).get m = q.get m := by
  fin_cases n <;> fin_cases m <;> first | rfl | exact absurd rfl h

@[simp] theorem Quad.get_map (g : α → β) (q : Quad α) (n : Lane) : (q.map g).get n = g (q.get n) := by
  fin_cases n <;> rfl

/-- `map` by an injective function is injective. -/
theorem Quad.map_injective {g : α → β} (hg : Function.Injective g) :
    Function.Injective (Quad.map g) := fun p q h =>
  Quad.ext_get fun n => hg (by simpa using congrArg (Quad.get · n) h)

variable {f : Form}

@[simp] theorem LaneState.xor_zero (x : LaneState f) : x.xor (LaneState.zero f) = x := by
  simp [LaneState.xor, LaneState.zero]

@[simp] theorem LaneState.zero_xor (x : LaneState f) : (LaneState.zero f).xor x = x := by
  simp [LaneState.xor, LaneState.zero]

@[simp] theorem LaneState.xor_self (x : LaneState f) : x.xor x = LaneState.zero f := by
  simp [LaneState.xor, LaneState.zero]

theorem LaneState.xor_comm (x y : LaneState f) : x.xor y = y.xor x := by
  simp [LaneState.xor, BitVec.xor_comm]

theorem LaneState.xor_assoc (x y z : LaneState f) : (x.xor y).xor z = x.xor (y.xor z) := by
  simp [LaneState.xor, BitVec.xor_assoc]

end Sys2Proof
end

