-- ==== Sys2Proof/Laws/State.lean ====
section
/-! SUPPORT. One lemma per field per update of the state, so that no proof unfolds a record update. -/

namespace Sys2Proof.Machine

variable {f : Form} (b : Block f)

@[simp] theorem Block.writeLanes_lanes (v : LaneState f) : (b.writeLanes v).lanes = v.map some := rfl
@[simp] theorem Block.writeLanes_dout (v : LaneState f) : (b.writeLanes v).dout = b.dout := rfl
@[simp] theorem Block.writeLanes_fault (v : LaneState f) : (b.writeLanes v).fault = b.fault := rfl
@[simp] theorem Block.writeLanes_cidx (v : LaneState f) : (b.writeLanes v).cidx = b.cidx := rfl
@[simp] theorem Block.writeLanes_program (v : LaneState f) : (b.writeLanes v).program = b.program := rfl

@[simp] theorem Block.writeLane_lanes (n : Lane) (v : Word f) :
    (b.writeLane n v).lanes = b.lanes.set n (some v) := rfl
@[simp] theorem Block.writeLane_dout (n : Lane) (v : Word f) : (b.writeLane n v).dout = b.dout := rfl
@[simp] theorem Block.writeLane_fault (n : Lane) (v : Word f) : (b.writeLane n v).fault = b.fault := rfl
@[simp] theorem Block.writeLane_cidx (n : Lane) (v : Word f) : (b.writeLane n v).cidx = b.cidx := rfl
@[simp] theorem Block.writeLane_program (n : Lane) (v : Word f) :
    (b.writeLane n v).program = b.program := rfl

@[simp] theorem Block.writeDout_lanes (v : Word f) : (b.writeDout v).lanes = b.lanes := rfl
@[simp] theorem Block.writeDout_dout (v : Word f) : (b.writeDout v).dout = some v := rfl
@[simp] theorem Block.writeDout_fault (v : Word f) : (b.writeDout v).fault = b.fault := rfl
@[simp] theorem Block.writeDout_cidx (v : Word f) : (b.writeDout v).cidx = b.cidx := rfl
@[simp] theorem Block.writeDout_program (v : Word f) : (b.writeDout v).program = b.program := rfl

@[simp] theorem Block.present_lanes (c : Command f) : (b.present c).lanes = b.lanes := rfl
@[simp] theorem Block.present_dout (c : Command f) : (b.present c).dout = b.dout := rfl
@[simp] theorem Block.present_fault (c : Command f) : (b.present c).fault = b.fault := rfl
@[simp] theorem Block.present_cidx (c : Command f) : (b.present c).cidx = b.cidx := rfl

@[simp] theorem State.resetOf_form (cfg : Config f) : (State.resetOf cfg).form = f := rfl
@[simp] theorem State.resetOf_config (cfg : Config f) : (State.resetOf cfg).config = cfg := rfl
@[simp] theorem State.resetOf_block (cfg : Config f) : (State.resetOf cfg).block = Block.reset f := rfl
@[simp] theorem State.assertReset_eq (s : State) : s.assertReset = State.resetOf s.config := rfl
@[simp] theorem State.current_eq (s : State) : s.current = s.block.current := rfl

end Sys2Proof.Machine
end

