-- ==== Sys2Proof/Laws/Ops.lean ====
section
/-! SUPPORT. What each shared operation can do, said once. A proof about a meaning cites these and does
not unfold the operation. -/

namespace Sys2Proof.Machine

variable {f : Form}

/-! ### The lift to an instance -/

@[simp] theorem liftEffect_next (cfg : Config f) (b : Block f) : liftEffect cfg (.next b) = .next ⟨f, cfg, b⟩ := rfl
@[simp] theorem liftEffect_fault (cfg : Config f) (r : Fault) : liftEffect cfg (.fault r) = .fault r := rfl
@[simp] theorem liftEffect_refused (cfg : Config f) (r : Refusal) : liftEffect cfg (.refused r) = .refused r := rfl

/-- A lifted effect answers a next state exactly when the effect does; the form and the configuration stay. -/
theorem liftEffect_next_iff {cfg : Config f} {e : Effect f} {t : State} :
    liftEffect cfg e = .next t ↔ ∃ b', e = .next b' ∧ t = ⟨f, cfg, b'⟩ := by
  cases e <;> simp [eq_comm]

@[simp] theorem State.onBlock_eq (cfg : Config f) (b : Block f) (effect : Block f → Effect f) :
    State.onBlock ⟨f, cfg, b⟩ effect = liftEffect cfg (effect b) := rfl

/-! ### Running, completing, faulting -/

@[simp] theorem Block.running_of_unfaulted {b : Block f} {e : Effect f} (h : b.fault = none) :
    b.running e = e := by simp [Block.running, h]

@[simp] theorem Block.running_of_faulted {b : Block f} {e : Effect f} {r : FaultRecord}
    (h : b.fault = some r) : b.running e = .fault (.halted r) := by simp [Block.running, h]

/-- A block that goes on had no fault record (R88). -/
theorem Block.running_next_iff {b b' : Block f} {e : Effect f} :
    b.running e = .next b' ↔ b.fault = none ∧ e = .next b' := by
  cases h : b.fault <;> simp [Block.running, h]

/-- A completion answers one state: cidx one further, everything else as it was (R19). -/
@[simp] theorem Block.complete_next_iff {b b' : Block f} :
    b.complete = .next b' ↔ b' = { b with cidx := b.cidx + 1 } := by
  simp [Block.complete, eq_comm]

/-- A fault answers one state: the record written, everything else as it was (R88). -/
@[simp] theorem Block.raise_next_iff {b b' : Block f} {code : FaultCode} {cmd : BitVec 32} :
    b.raise code cmd = .next b' ↔ b' = { b with fault := some ⟨code, cmd⟩ } := by
  simp [Block.raise, eq_comm]

/-! ### Reading lanes and DIN -/

@[simp] theorem allWritten_map_some (v : LaneState f) : allWritten (v.map some) = some v := rfl

/-- The marks are all set exactly when the lanes are a full state. -/
theorem allWritten_eq_some_iff {q : Quad (Option (Word f))} {v : LaneState f} :
    allWritten q = some v ↔ q = v.map some := by
  obtain ⟨q0, q1, q2, q3⟩ := q
  obtain ⟨v0, v1, v2, v3⟩ := v
  cases q0 <;> cases q1 <;> cases q2 <;> cases q3 <;> simp [allWritten, Quad.map]

/-- A mark is clear exactly when some lane is unwritten. -/
theorem allWritten_eq_none_iff {q : Quad (Option (Word f))} :
    allWritten q = none ↔ ∃ n : Lane, q.get n = none := by
  obtain ⟨q0, q1, q2, q3⟩ := q
  cases q0 <;> cases q1 <;> cases q2 <;> cases q3 <;>
    simp [allWritten, Fin.exists_fin_succ, Quad.get]

/-- A lane read goes on with the full state, or raises F_UNINIT because a lane is unwritten (R86). -/
theorem Block.readLanes_cases (b : Block f) (cmd : BitVec 32) (use : LaneState f → Effect f) :
    (∃ v, b.lanes = v.map some ∧ b.readLanes cmd use = use v) ∨
      ((∃ n : Lane, b.lanes.get n = none) ∧ b.readLanes cmd use = b.raise .uninit cmd) := by
  unfold Block.readLanes
  split <;> rename_i h
  · exact .inl ⟨_, allWritten_eq_some_iff.mp h, rfl⟩
  · exact .inr ⟨allWritten_eq_none_iff.mp h, rfl⟩

theorem Block.readLanes_of_full {b : Block f} {cmd : BitVec 32} {use : LaneState f → Effect f}
    {v : LaneState f} (h : b.lanes = v.map some) : b.readLanes cmd use = use v := by
  simp [Block.readLanes, h]

theorem Block.readLanes_of_unwritten {b : Block f} {cmd : BitVec 32} {use : LaneState f → Effect f}
    (h : ∃ n : Lane, b.lanes.get n = none) : b.readLanes cmd use = b.raise .uninit cmd := by
  simp [Block.readLanes, allWritten_eq_none_iff.mpr h]

theorem Block.readLane_of_written {b : Block f} {cmd : BitVec 32} {n : Lane} {use : Word f → Effect f}
    {v : Word f} (h : b.lanes.get n = some v) : b.readLane cmd n use = use v := by
  simp [Block.readLane, h]

theorem Block.readLane_of_unwritten {b : Block f} {cmd : BitVec 32} {n : Lane}
    {use : Word f → Effect f} (h : b.lanes.get n = none) :
    b.readLane cmd n use = b.raise .uninit cmd := by
  simp [Block.readLane, h]

theorem Block.readDin_of_current {b : Block f} {use : Word f → Effect f} {c : Command f}
    (h : b.current = some c) : b.readDin use = use c.din := by
  simp [Block.readDin, Block.din, h]

theorem Block.readDin_of_noCommand {b : Block f} {use : Word f → Effect f}
    (h : b.current = none) : b.readDin use = .refused .noCommand := by
  simp [Block.readDin, Block.din, h]

/-! ### The port -/

/-- The command that is presented is the one on the port. -/
@[simp] theorem Block.present_current (b : Block f) (c : Command f) :
    (b.present c).current = some c := by
  simp only [Block.current, Block.present, placeAt]
  rw [List.getElem?_append_right (by simp; omega)]
  have h : b.cidx - (min b.cidx b.program.length + (b.cidx - b.program.length)) = 0 := by omega
  simp [h]

end Sys2Proof.Machine
end

