-- ==== Sys2Proof/Laws/Exec.lean ====
section
/-! SUPPORT. What a command can do, said once: `exec` as an effect on the block, and the inversion of a
command that answers a next state. -/

namespace Sys2Proof.Machine

variable {f : Form}

/-- Every meaning is its command's effect on the block, lifted to the instance. -/
theorem exec_eq_lift (cfg : Config f) (i : Instr) (b : Block f) :
    exec i ⟨f, cfg, b⟩ = liftEffect cfg (b.exec cfg i) := by cases i <;> rfl

theorem takeIllegal_eq_lift (cfg : Config f) (cmd : BitVec 32) (b : Block f) :
    takeIllegal cmd ⟨f, cfg, b⟩ = liftEffect cfg (illegalEffect cmd b) := rfl

/-- A command that answers a next block answers the instance with that block. -/
theorem exec_of_block_next {cfg : Config f} {i : Instr} {b b' : Block f} (h : b.exec cfg i = .next b') :
    exec i ⟨f, cfg, b⟩ = .next ⟨f, cfg, b'⟩ := by rw [exec_eq_lift, h, liftEffect_next]

theorem exec_of_block_refused {cfg : Config f} {i : Instr} {b : Block f} {r : Refusal}
    (h : b.exec cfg i = .refused r) : exec i ⟨f, cfg, b⟩ = .refused r := by
  rw [exec_eq_lift, h, liftEffect_refused]

/-- What a command that completes can do to a block: its result fields, by command. -/
def Completes (cfg : Config f) (i : Instr) (b b' : Block f) : Prop :=
  match i with
  | .next => ∃ v, b.lanes = v.map some ∧
      b' = { b with lanes := (laneStep v).map some, dout := some (laneOut v), cidx := b.cidx + 1 }
  | .jump => ∃ v, b.lanes = v.map some ∧
      b' = { b with lanes := (jumpPoly v cfg.jumpTable).map some, cidx := b.cidx + 1 }
  | .ljump => ∃ v, b.lanes = v.map some ∧
      b' = { b with lanes := (jumpPoly v cfg.longJumpTable).map some, cidx := b.cidx + 1 }
  | .seed => ∃ c, b.current = some c ∧
      b' = { b with lanes := (expand cfg c.din).map some, cidx := b.cidx + 1 }
  | .ldl n => ∃ c, b.current = some c ∧
      b' = { b with lanes := b.lanes.set n (some c.din), cidx := b.cidx + 1 }
  | .rdl n => ∃ v, b.lanes.get n = some v ∧ b' = { b with dout := some v, cidx := b.cidx + 1 }
  | .rdmin => b' = { b with dout := some (minValue f), cidx := b.cidx + 1 }
  | .rdmax => b' = { b with dout := some (maxValue f), cidx := b.cidx + 1 }

/-- A command reads an unwritten lane, and its fault record is written, nothing else. -/
def Faults (i : Instr) (b b' : Block f) : Prop :=
  (∃ n ∈ i.lanesRead, b.lanes.get n = none) ∧ b' = { b with fault := some ⟨.uninit, encode i⟩ }

/-- The effect of a command that answers a next block: the block was unfaulted, and the command completed or
faulted. -/
theorem Block.exec_next_cases {cfg : Config f} {i : Instr} {b b' : Block f} (h : b.exec cfg i = .next b') :
    b.fault = none ∧ (Completes cfg i b b' ∨ Faults i b b') := by
  have lanes {cmd : BitVec 32} {use : LaneState f → Effect f} (h : b.readLanes cmd use = .next b') :
      (∃ v, b.lanes = v.map some ∧ use v = .next b') ∨
        (∃ n ∈ [(0 : Lane), 1, 2, 3], b.lanes.get n = none) ∧ b' = { b with fault := some ⟨.uninit, cmd⟩ } := by
    obtain ⟨v, hv, e⟩ | ⟨⟨n, hn⟩, e⟩ := b.readLanes_cases cmd use <;> rw [e] at h
    · exact .inl ⟨v, hv, h⟩
    · exact .inr ⟨⟨n, by fin_cases n <;> simp, hn⟩, by simpa using h⟩
  have din {use : Word f → Effect f} (h : b.readDin use = .next b') :
      ∃ c, b.current = some c ∧ use c.din = .next b' := by
    cases hc : b.current with
    | none => rw [Block.readDin_of_noCommand hc] at h; simp at h
    | some c => exact ⟨c, rfl, by rwa [Block.readDin_of_current hc] at h⟩
  cases i <;> obtain ⟨hf, h⟩ := Block.running_next_iff.mp h <;> refine ⟨hf, ?_⟩
  case next | jump | ljump =>
    obtain ⟨v, hv, h⟩ | h := lanes h
    · exact .inl ⟨v, hv, by simpa using h⟩
    · exact .inr h
  case seed | ldl =>
    obtain ⟨c, hc, h⟩ := din h
    exact .inl ⟨c, hc, by simpa using h⟩
  case rdl n _ =>
    cases hn : b.lanes.get n with
    | none =>
      rw [Block.readLane_of_unwritten hn] at h
      exact .inr ⟨⟨n, by simp [Instr.lanesRead], hn⟩, by simpa using h⟩
    | some v =>
      rw [Block.readLane_of_written hn] at h
      exact .inl ⟨v, hn, by simpa using h⟩
  case rdmin | rdmax => exact .inl (by simpa [Completes] using h)

/-- The inversion of `exec` at a next state. -/
theorem exec_next_cases {cfg : Config f} {i : Instr} {b : Block f} {t : State}
    (h : exec i ⟨f, cfg, b⟩ = .next t) :
    b.fault = none ∧ ∃ b' : Block f, t = ⟨f, cfg, b'⟩ ∧ (Completes cfg i b b' ∨ Faults i b b') := by
  rw [exec_eq_lift] at h
  obtain ⟨b', hb, rfl⟩ := liftEffect_next_iff.mp h
  obtain ⟨hf, hc⟩ := Block.exec_next_cases hb
  exact ⟨hf, b', rfl, hc⟩

/-- The inversion of a step of the machine with parameters: the command on the port ran, or its word was
illegal. -/
theorem Block.step_next_cases {cfg : Config f} {b b' : Block f} (h : b.step cfg = .next b') :
    b.fault = none ∧ ∃ c : Command f, b.current = some c ∧
      ((∃ i, decode c.cmd = some i ∧ (Completes cfg i b b' ∨ Faults i b b')) ∨
        decode c.cmd = none ∧ b' = { b with fault := some ⟨.illegal, c.cmd⟩ }) := by
  cases hf : b.fault with
  | some r => simp [Block.step, takeCommand, hf] at h
  | none =>
    cases hc : b.current with
    | none => simp [Block.step, takeCommand, hf, hc] at h
    | some c =>
      cases hd : decode c.cmd with
      | none =>
        simp only [Block.step, takeCommand, hf, hc, hd, Option.map_some] at h
        exact ⟨rfl, c, rfl, .inr ⟨hd, by simpa [illegalEffect, hf] using h⟩⟩
      | some i =>
        simp only [Block.step, takeCommand, hf, hc, hd, Option.map_some] at h
        exact ⟨rfl, c, rfl, .inl ⟨i, hd, (Block.exec_next_cases h).2⟩⟩

/-- A step of an instance is a step of the machine with parameters, lifted. -/
theorem step_eq_lift (cfg : Config f) (b : Block f) : step ⟨f, cfg, b⟩ = liftEffect cfg (b.step cfg) := by
  simp only [step, Block.step, takeCommand, State.current_eq]
  cases b.fault with
  | some r => rfl
  | none =>
    cases b.current with
    | none => rfl
    | some c =>
      simp only [Option.map_some]
      cases decode c.cmd with
      | none => rfl
      | some i => exact exec_eq_lift cfg i b

/-- The inversion of `step` at a next state. -/
theorem step_next_cases {cfg : Config f} {b : Block f} {t : State} (h : step ⟨f, cfg, b⟩ = .next t) :
    b.fault = none ∧ ∃ (c : Command f) (b' : Block f), b.current = some c ∧ t = ⟨f, cfg, b'⟩ ∧
      ((∃ i, decode c.cmd = some i ∧ (Completes cfg i b b' ∨ Faults i b b')) ∨
        decode c.cmd = none ∧ b' = { b with fault := some ⟨.illegal, c.cmd⟩ }) := by
  rw [step_eq_lift] at h
  obtain ⟨b', hb, rfl⟩ := liftEffect_next_iff.mp h
  obtain ⟨hf, c, hc, hcases⟩ := Block.step_next_cases hb
  exact ⟨hf, c, b', hc, rfl, hcases⟩

end Sys2Proof.Machine
end

