-- ==== Sys2Proof/Laws/PerInstr.lean ====
section
/-! SUPPORT. Laws made per instruction: the fields of every command's word are well formed, and laying
them out in a word loses none (spec/30_encoding.md R35, R39). -/

namespace Sys2Proof.Laws.EncodeFormat

/-- The command's fields pass the three checks of R41, and splitting its word gives them back. -/
def Statement (i : Instr) : Prop :=
  i.fields.wellFormed = true ∧ CmdFields.ofWord (encode i) = i.fields

theorem next : Statement .next := by constructor <;> decide
theorem jump : Statement .jump := by constructor <;> decide
theorem ljump : Statement .ljump := by constructor <;> decide
theorem seed : Statement .seed := by constructor <;> decide
theorem ldl (n : Lane) : Statement (.ldl n) := by fin_cases n <;> constructor <;> decide
theorem rdl (n : Lane) : Statement (.rdl n) := by fin_cases n <;> constructor <;> decide
theorem rdmin : Statement .rdmin := by constructor <;> decide
theorem rdmax : Statement .rdmax := by constructor <;> decide

end Sys2Proof.Laws.EncodeFormat
end

