-- ==== Sys2Proof/Laws/Word.lean ====
section
/-! SUPPORT. The two widths, and the primitives of R9 as operations of `BitVec`. -/

namespace Sys2Proof

@[simp] theorem Form.width_xpp128 : Form.width .xpp128 = 32 := rfl
@[simp] theorem Form.width_xpp256 : Form.width .xpp256 = 64 := rfl

theorem Form.width_pos (f : Form) : 0 < f.width := by cases f <;> decide

namespace Machine

variable {f : Form}

theorem addW_toNat (a b : Word f) : (addW a b).toNat = (a.toNat + b.toNat) % 2 ^ f.width :=
  BitVec.toNat_add a b

theorem mulW_toNat (a b : Word f) : (mulW a b).toNat = a.toNat * b.toNat % 2 ^ f.width :=
  BitVec.toNat_mul a b

theorem shlW_toNat (a : Word f) (k : Nat) : (shlW a k).toNat = a.toNat * 2 ^ k % 2 ^ f.width := by
  simp [shlW, Nat.shiftLeft_eq]

theorem shrW_toNat (a : Word f) (k : Nat) : (shrW a k).toNat = a.toNat / 2 ^ k := by
  simp [shrW, Nat.shiftRight_eq_div_pow]

/-- A rotation moves bit `i` to bit `i + k` mod W, for 0 < k < W (R9). -/
theorem rotlW_getLsbD (a : Word f) {k i : Nat} (hk : k < f.width) (hi : i < f.width) :
    (rotlW a k).getLsbD i = a.getLsbD (if i < k then f.width - k + i else i - k) := by
  simp only [rotlW, shlW, shrW, BitVec.getLsbD_or, BitVec.getLsbD_shiftLeft, BitVec.getLsbD_ushiftRight]
  by_cases h : i < k
  · simp [h, hi]
  · simp [h, hi, BitVec.getLsbD_of_ge a (f.width - k + i) (by omega)]

/-- Shifts and rotations distribute over XOR, which is why `step` is linear (R49). -/
theorem shlW_xor (a b : Word f) (k : Nat) : shlW (a ^^^ b) k = shlW a k ^^^ shlW b k :=
  BitVec.shiftLeft_xor_distrib a b k

theorem rotlW_xor (a b : Word f) {k : Nat} (hk : k < f.width) :
    rotlW (a ^^^ b) k = rotlW a k ^^^ rotlW b k := by
  apply BitVec.eq_of_getLsbD_eq
  intro i hi
  simp only [BitVec.getLsbD_xor, rotlW_getLsbD _ hk hi]

end Machine

end Sys2Proof
end

