-- ==== Sys2Proof/Tests/Slice0.lean ====
section
/-! SUPPORT. The model's own tests. Expected values come from the spec: its opcode map (R39), its
examples and its vectors V1 to V7 (spec/95_test_vectors.md). At the end, one witness for the
hypotheses of every statement that has some. -/

namespace Sys2Proof.Tests

open Sys2Proof.Machine

/-- The state a step or meaning answers, if it answers one. -/
def answer : Host.Outcome State Fault Refusal → Option State
  | .next s => some s
  | .fault _ => none
  | .refused _ => none

/-- An unfaulted state of form `f` with four written lanes, at the start of the host's list `p`. -/
def loaded (f : Form) (v : LaneState f) (p : List (Command f) := []) : State :=
  ⟨f, Config.default f, ⟨v.map some, none, none, 0, p⟩⟩

/-- A reset state in which the host has issued one command. -/
def issued (f : Form) (cmd : BitVec 32) (din : Word f := 0) : State :=
  (State.resetOf (Config.default f)).issue ⟨cmd, din⟩

/-! ### Well-formedness: one ill-formed word for each check of R41 -/

theorem test_wellFormed_ldl_lane3 : (CmdFields.ofWord 0x00000035#32).wellFormed = true := by decide
theorem test_illFormed_rsv_bit6 : (CmdFields.ofWord 0x00000045#32).rsvOk = false ∧
    (CmdFields.ofWord 0x00000045#32).wellFormed = false := by decide
theorem test_illFormed_op_nine : (CmdFields.ofWord 0x00000009#32).opOk = false ∧
    (CmdFields.ofWord 0x00000009#32).wellFormed = false := by decide
theorem test_illFormed_op_zero : (CmdFields.ofWord 0x00000000#32).wellFormed = false := by decide
theorem test_illFormed_next_with_lane1 : (CmdFields.ofWord 0x00000011#32).laneOk = false ∧
    (CmdFields.ofWord 0x00000011#32).wellFormed = false := by decide

/-! ### Decoding: each command's word, written out from R35 and R39 (RSV, LANE, OP) -/

theorem test_decode_next : decode (0#26 ++ 0b00#2 ++ 0b0001#4) = some .next := by decide
theorem test_decode_jump : decode (0#26 ++ 0b00#2 ++ 0b0010#4) = some .jump := by decide
theorem test_decode_ljump : decode (0#26 ++ 0b00#2 ++ 0b0011#4) = some .ljump := by decide
theorem test_decode_seed : decode (0#26 ++ 0b00#2 ++ 0b0100#4) = some .seed := by decide
theorem test_decode_ldl2 : decode (0#26 ++ 0b10#2 ++ 0b0101#4) = some (.ldl 2) := by decide
theorem test_decode_rdl1 : decode (0#26 ++ 0b01#2 ++ 0b0110#4) = some (.rdl 1) := by decide
theorem test_decode_rdmin : decode (0#26 ++ 0b00#2 ++ 0b0111#4) = some .rdmin := by decide
theorem test_decode_rdmax : decode (0#26 ++ 0b00#2 ++ 0b1000#4) = some .rdmax := by decide
theorem test_decode_illegal :
    [0x00000000#32, 0x00000009#32, 0x00000011#32, 0x00000045#32, 0x80000001#32].map decode =
      [none, none, none, none, none] := by decide
theorem test_decodeTableWord_rdl3 : decodeTableWord 32 0x36 = some (.rdl 3) := by decide

/-! ### NEXT (V2) -/

theorem test_next_xpp128_wraps : answer (exec .next (loaded .xpp128 ⟨0xffffffff, 0, 0, 1⟩)) =
    some ⟨.xpp128, Config.default _, ⟨⟨some 0xfffffffe, some 0xffffffff, some 0xffffffff, some 0x800⟩,
      some 0xffffffff, none, 1, []⟩⟩ := by decide
theorem test_next_xpp256_ordinary : answer (exec .next (loaded .xpp256 ⟨1, 2, 3, 4⟩)) =
    some ⟨.xpp256, Config.default _, ⟨⟨some 7, some 0, some 0x40002, some 0x0000c00000000000⟩,
      some 0x0000000002800001, none, 1, []⟩⟩ := by decide

/-! ### JUMP and LJUMP (V3) -/

theorem test_jump_xpp128 : (answer (exec .jump (loaded .xpp128 ⟨1, 2, 3, 4⟩))) =
    some ⟨.xpp128, Config.default _, ⟨⟨some 0xa9765206, some 0x797aa168, some 0x5b62e331, some 0x02abd971⟩,
      none, none, 1, []⟩⟩ := by decide
theorem test_ljump_xpp128 : (answer (exec .ljump (loaded .xpp128 ⟨1, 2, 3, 4⟩))) =
    some ⟨.xpp128, Config.default _, ⟨⟨some 0x6014af26, some 0x7eb5a852, some 0x399fbba1, some 0xbe5ebfce⟩,
      none, none, 1, []⟩⟩ := by decide
theorem test_jump_xpp256 : jumpPoly ⟨1, 2, 3, 4⟩ (Config.default .xpp256).jumpTable =
    ⟨0x8c7a153956b5f3d1, 0x701f1a713401d85e, 0x6527f66a65469085, 0x8386b786c4408050⟩ := by decide +kernel
theorem test_ljump_xpp256 : jumpPoly ⟨1, 0, 0, 0⟩ (Config.default .xpp256).longJumpTable =
    ⟨0xce29becfff66233d, 0x2b7f3b62d5a6f2c5, 0x92363eacd09910b7, 0xd92a5d2281721d7f⟩ := by decide +kernel

/-! ### SEED (V4) -/

theorem test_seed_xpp256 : answer (step (issued .xpp256 0x00000004#32 0x0123456789abcdef#64)) =
    some ⟨.xpp256, Config.default _, ⟨⟨some 0x157a3807a48faa9d, some 0xd573529b34a1d093, some 0x2f90b72e996dccbe,
      some 0xa2d419334c4667ec⟩, none, none, 1, [⟨4, 0x0123456789abcdef⟩]⟩⟩ := by decide
theorem test_seed_xpp128 : expand (Config.default .xpp128) 0x12345678#32 =
    ⟨0x91a847f6, 0x1179947f, 0x564d49c7, 0x17beec65⟩ := by decide
/-- An instance with another configuration: SEED runs with that instance's increment and mixer (R6, R68). -/
theorem test_seed_uses_the_instance_config :
    answer (step ⟨.xpp128, ⟨⟨0, 0, 0, 0⟩, ⟨0, 0, 0, 0⟩, 1, []⟩, ⟨⟨none, none, none, none⟩, none, none, 0,
      [⟨4, 10⟩]⟩⟩) =
    some ⟨.xpp128, ⟨⟨0, 0, 0, 0⟩, ⟨0, 0, 0, 0⟩, 1, []⟩, ⟨⟨some 11, some 12, some 13, some 14⟩, none, none, 1,
      [⟨4, 10⟩]⟩⟩ := by decide
/-- The table with the one coefficient c_0 = 1 is the identity polynomial (R57). -/
theorem test_jump_uses_the_instance_table :
    answer (exec .jump ⟨.xpp128, ⟨⟨1, 0, 0, 0⟩, ⟨0, 0, 0, 0⟩, 1, []⟩, ⟨⟨some 1, some 2, some 3, some 4⟩, none,
      none, 0, []⟩⟩) =
    some ⟨.xpp128, ⟨⟨1, 0, 0, 0⟩, ⟨0, 0, 0, 0⟩, 1, []⟩, ⟨⟨some 1, some 2, some 3, some 4⟩, none, none, 1,
      []⟩⟩ := by decide
/-- The machine with parameters has a reset of each form (R2, R25). -/
theorem test_coreOf_reset_xpp128 :
    Host.Core.reset (coreOf (Config.default .xpp128)) = Block.reset .xpp128 := rfl
theorem test_mix64_top_bit : (Config.default .xpp256).mix 0x8000000000000000#64 = 0x25c26ea579cea98a#64 := by decide
theorem test_mix32_all_ones : (Config.default .xpp128).mix 0xffffffff#32 = 0x127f588f#32 := by decide

/-! ### LDL, RDL, RDMIN, RDMAX (V5) -/

theorem test_ldl2_after_reset : answer (step (issued .xpp128 0x00000025#32 0xcafef00d#32)) =
    some ⟨.xpp128, Config.default _, ⟨⟨none, none, some 0xcafef00d, none⟩, none, none, 1,
      [⟨0x25, 0xcafef00d⟩]⟩⟩ := by decide
theorem test_rdl3_reads_lane3 : (answer (exec (.rdl 3) (loaded .xpp256 ⟨1, 2, 3, 0xf88b⟩))).map
    (fun s => s.block.dout.map BitVec.toNat) = some (some 0xf88b) := by decide
theorem test_rdmin_after_reset : (answer (step (issued .xpp128 0x00000007#32))).map
    (fun s => (s.block.dout.map BitVec.toNat, s.block.fault)) = some (some 0, none) := by decide
theorem test_rdmax_after_reset : (answer (step (issued .xpp256 0x00000008#32))).map
    (fun s => (s.block.dout.map BitVec.toNat, s.block.fault)) =
      some (some 0xffffffffffffffff, none) := by decide

/-! ### Faults (V6) -/

theorem test_next_after_reset_uninit : answer (step (issued .xpp128 0x00000001#32)) =
    some ⟨.xpp128, Config.default _, ⟨⟨none, none, none, none⟩, none, some ⟨.uninit, 0x00000001⟩, 0,
      [⟨1, 0⟩]⟩⟩ := by decide
theorem test_illegal_before_uninit : (answer (step (issued .xpp256 0x00000011#32))).map
    (fun s => (s.block.fault, s.block.cidx)) = some (some ⟨.illegal, 0x00000011⟩, 0) := by decide
theorem test_faulted_has_no_step : ((answer (step (issued .xpp256 0x00000000#32))).map
    (fun s => answer (step s))) = some none := by decide
theorem test_ljump_with_lane3_unwritten : (answer (step ⟨.xpp128, Config.default _,
    ⟨⟨some 1, some 2, some 3, none⟩, none, none, 0, [⟨3, 0⟩]⟩⟩)).map (fun s => s.block.fault) =
      some (some ⟨.uninit, 0x00000003⟩) := by decide

/-! ### The host's side: fetch word, importer (V7), listing text (R45), inverse of the step (R49) -/

theorem test_withFetchWord_rdmax : (answer (step (State.reset.withFetchWord 32 0x8))).map
    (fun s => s.block.dout.map BitVec.toNat) = some (some (2 ^ 64 - 1)) := by decide
theorem test_importer_source_example : importLane .xpp128 16 [0x1234, 0x5678] =
    some (0x56781234#32, []) := by decide
theorem test_importer_masks_wide_draw : importLane .xpp128 16 [0xffff1234, 0x5678] =
    some (0x56781234#32, []) := by decide
theorem test_importer_truncates : importLane .xpp128 64 [0x0123456789abcdef] =
    some (0x89abcdef#32, []) := by decide
theorem test_importer_remix_off_and_on :
    importLanes (Config.default .xpp128) 32 [0, 1, 2, 0xffffffff] = some ⟨0, 1, 2, 0xffffffff⟩ ∧
    importLanes (Config.default .xpp128) 32 [0, 1, 2, 0xffffffff] true =
      some ⟨0x00000000, 0x042741d6, 0xf1dfe8e9, 0x127f588f⟩ := by decide
theorem test_subStreamBoot_two_jumps : subStreamBoot (f := .xpp256) 0x0123456789abcdef#64 2 =
    [⟨4, 0x0123456789abcdef⟩, ⟨2, 0⟩, ⟨2, 0⟩] := by decide
theorem test_jump_distances : [jumpDistance .xpp128, longJumpDistance .xpp128, jumpDistance .xpp256,
    longJumpDistance .xpp256] = [2 ^ 64, 2 ^ 96, 2 ^ 128, 2 ^ 192] := by decide
theorem test_listing_text : (AsmLine.ldl 2 0xcafef00d#32 : AsmLine .xpp128).text = "LDL 2, #cafef00d" := by
  decide
theorem test_unstep_xpp128 : laneUnstep (f := .xpp128) ⟨7, 0, 0x402, 0x3000⟩ = ⟨1, 2, 3, 4⟩ := by decide
theorem test_applyT_unit_lane1 : applyT (f := .xpp128) ⟨0, 1, 0, 0⟩ = ⟨1, 1, 0x200, 0x800⟩ := by decide

/-! ### Witnesses: a concrete state and operands for the hypotheses of each statement -/

/-- A block with one command on the port. -/
def onPort (f : Form) (lanes : Quad (Option (Word f))) (cmd : BitVec 32) (din : Word f := 0) : Block f :=
  ⟨lanes, none, none, 0, [⟨cmd, din⟩]⟩

/-- No lane written. -/
def noLanes (f : Form) : Quad (Option (Word f)) := ⟨none, none, none, none⟩

/-- A block whose fault record is set. -/
def faultedBlock : Block .xpp128 := { onPort .xpp128 (noLanes _) 9 with fault := some ⟨.illegal, 9⟩ }

theorem witness_IllegalWordsAreExactlyTheseAndRaiseIllegal :
    let b := onPort .xpp256 (noLanes _) 0x00000009#32
    b.fault = none ∧ b.current = some ⟨9, 0⟩ ∧ decode 0x00000009#32 = none ∧
      decode 0x00000045#32 = none ∧ decode 0x00000011#32 = none ∧ decode 0x00000010#32 = none := by decide

theorem witness_StepRunsTheDecodedCommand :
    let s : State := ⟨.xpp128, Config.default _, onPort .xpp128 (noLanes _) 0x00000035#32 7⟩
    s.block.fault = none ∧ s.current = some ⟨0x35, 7⟩ ∧ decode 0x00000035#32 = some (.ldl 3) := by decide

theorem witness_NoCommandNoStep : State.reset.block.fault = none ∧ State.reset.current = none := by decide

theorem witness_SameLanesAndCommandGiveSameEffect :
    let b := (loaded .xpp128 ⟨1, 2, 3, 4⟩ [⟨1, 0⟩]).block
    let c : Block .xpp128 := { b with dout := some 5, cidx := 1, program := [⟨8, 0⟩, ⟨1, 0⟩] }
    b.fault = none ∧ c.fault = none ∧ b.lanes = c.lanes ∧ b.current = some ⟨1, 0⟩ ∧
      c.current = some ⟨1, 0⟩ ∧ decode 0x00000001#32 = some .next := by decide

theorem witness_OtherCommandsIgnoreDin :
    (Block.reset .xpp256).fault = none ∧ decode 0x00000036#32 ≠ some .seed ∧
      ∀ n : Lane, decode 0x00000036#32 ≠ some (.ldl n) := by decide

theorem witness_written_lanes_for_Next_Jump_Ljump :
    (loaded .xpp256 ⟨1, 2, 3, 4⟩).block.fault = none ∧
      (loaded .xpp256 ⟨1, 2, 3, 4⟩).block.lanes = (⟨1, 2, 3, 4⟩ : LaneState .xpp256).map some := ⟨rfl, rfl⟩

theorem witness_unwritten_lane_for_Next_Jump_Ljump_Rdl :
    (Block.reset .xpp128).fault = none ∧ (Block.reset .xpp128).lanes.get 3 = none ∧
      (⟨some 1, some 2, some 3, none⟩ : Quad (Option (Word .xpp128))).get 3 = none := by decide

theorem witness_ZeroStateIsAbsorbingAndUnreachable :
    (⟨0, 0, 0, 1⟩ : LaneState .xpp128) ≠ LaneState.zero .xpp128 := by decide

theorem witness_RdminWritesZero_RdmaxWritesAllOnes : (Block.reset .xpp256).fault = none := by decide

theorem witness_SeedWritesExpansionOfDin_LdlWritesOneLane :
    let b := onPort .xpp256 (noLanes _) 0x00000004#32 0
    b.fault = none ∧ b.current = some ⟨4, 0⟩ := by decide

theorem witness_SeedIsNeverDegenerate_default_gamma_odd :
    (Config.default .xpp128).gamma.getLsbD 0 = true ∧ (Config.default .xpp256).gamma.getLsbD 0 = true := by
  decide

/-- The other premise of the statement: an odd increment with the identity as mixer. -/
theorem witness_SeedIsNeverDegenerate_other_mixer :
    ∃ (gamma : Word .xpp128) (mix : Word .xpp128 → Word .xpp128),
      gamma.getLsbD 0 = true ∧ Function.Bijective mix ∧ mix 0 = 0 :=
  ⟨1, id, by decide, Function.bijective_id, rfl⟩

theorem witness_RdlReadsOneLane :
    (⟨none, none, some 5, none⟩ : Quad (Option (Word .xpp128))).get 2 = some 5 ∧
      (⟨none, none, some 5, none⟩ : Quad (Option (Word .xpp128))).get 3 = none := by decide

theorem witness_FourLdlsInAnyOrderLoadAFullState :
    let p : List (Command .xpp128) := [⟨0x35, 4⟩, ⟨0x05, 1⟩, ⟨0x25, 3⟩, ⟨0x15, 2⟩]
    [(3 : Lane), 0, 2, 1].Nodup ∧
      p.drop 0 = [⟨encode (.ldl 3), 4⟩, ⟨encode (.ldl 0), 1⟩, ⟨encode (.ldl 2), 3⟩, ⟨encode (.ldl 1), 2⟩] := by
  decide

theorem witness_UnwrittenLaneRaisesUninit_other_lane :
    let q : Quad (Option (Word .xpp128)) := ⟨some 1, none, none, none⟩
    (3 : Lane) ≠ 0 ∧ q.get 3 = none ∧ q.get 0 = some 1 := by decide

theorem witness_UnwrittenLaneRaisesUninit :
    (Block.reset .xpp256).lanes.get 0 = none ∧ Instr.rdl 0 ∈ [Instr.next, .jump, .ljump, .rdl 0] := by decide

theorem witness_IllegalTakesPriorityOverUninit_illegal :
    step ⟨.xpp128, Config.default _, onPort .xpp128 (noLanes _) 0x11⟩ =
      .next ⟨.xpp128, Config.default _, { onPort .xpp128 (noLanes _) 0x11 with fault := some ⟨.illegal, 0x11⟩ }⟩ := rfl

theorem witness_IllegalTakesPriorityOverUninit_uninit :
    step ⟨.xpp128, Config.default _, onPort .xpp128 (noLanes _) 0x1⟩ =
      .next ⟨.xpp128, Config.default _, { onPort .xpp128 (noLanes _) 0x1 with fault := some ⟨.uninit, 0x1⟩ }⟩ := rfl

/-- A faulting command, for the statements about faults, frames, marks, DOUT and cidx. -/
theorem witness_faulting_command :
    exec (.rdl 2) ⟨.xpp128, Config.default _, Block.reset .xpp128⟩ =
      .next ⟨.xpp128, Config.default _, { Block.reset .xpp128 with fault := some ⟨.uninit, 0x26⟩ }⟩ := rfl

/-- A completed command that writes DOUT alone, for the same statements. -/
theorem witness_completed_read :
    exec .rdmax ⟨.xpp128, Config.default _, Block.reset .xpp128⟩ =
      .next ⟨.xpp128, Config.default _, { Block.reset .xpp128 with dout := some 0xffffffff, cidx := 1 }⟩ := rfl

/-- A completed command that writes one lane and leaves the others and DOUT. -/
theorem witness_completed_ldl :
    exec (.ldl 3) ⟨.xpp128, Config.default _, onPort .xpp128 (noLanes _) 0x35 9⟩ =
      .next ⟨.xpp128, Config.default _, { onPort .xpp128 (noLanes _) 0x35 9 with
        lanes := ⟨none, none, none, some 9⟩, cidx := 1 }⟩ := rfl

/-- A completed command that writes all four lanes: SEED on the port of a block with none written. -/
theorem witness_completed_seed :
    ∃ t, exec .seed ⟨.xpp256, Config.default _, onPort .xpp256 (noLanes _) 0x4 0⟩ = .next t ∧
      step ⟨.xpp256, Config.default _, onPort .xpp256 (noLanes _) 0x4 0⟩ = .next t := ⟨_, rfl, rfl⟩

theorem witness_FaultsArePreciseAndTerminal :
    faultedBlock.fault = some ⟨.illegal, 9⟩ ∧ faultedBlock.current = some ⟨9, 0⟩ := by decide

theorem witness_RunEndsCompleteOrFaulted :
    (loaded .xpp128 ⟨1, 2, 3, 4⟩ [⟨1, 0⟩]).block.cidx ≤ (loaded .xpp128 ⟨1, 2, 3, 4⟩ [⟨1, 0⟩]).block.program.length ∧
      (loaded .xpp128 ⟨1, 2, 3, 4⟩ [⟨1, 0⟩]).block.fault = none := by decide

/-- A consistent state with a fault record, and one without. -/
theorem witness_StepKeepsConsistent_ResetAndIssueAreConsistent :
    State.consistent ⟨.xpp128, Config.default _, faultedBlock⟩ ∧ (State.resetOf (Config.default .xpp256)).consistent := by
  refine ⟨⟨by decide, fun r hr => ⟨⟨9, 0⟩, rfl, ?_⟩⟩, Nat.le_refl _, fun r hr => by cases hr⟩
  cases hr
  exact ⟨rfl, rfl⟩

theorem witness_StepsButLdlKeepStateNonzero :
    (loaded .xpp128 ⟨0, 0, 0, 1⟩ [⟨1, 0⟩]).notAllZero ∧
      (loaded .xpp128 ⟨0, 0, 0, 1⟩ [⟨1, 0⟩]).current = some ⟨1, 0⟩ ∧
      (∀ n : Lane, decode 0x00000001#32 ≠ some (.ldl n)) ∧
      ∃ t, step (loaded .xpp128 ⟨0, 0, 0, 1⟩ [⟨1, 0⟩]) = .next t :=
  ⟨by unfold State.notAllZero; decide, by decide, by decide, _, rfl⟩

theorem witness_IssuedCommandsAreHeldInOrder :
    (onPort .xpp128 (noLanes _) 1).current = some ⟨1, 0⟩ ∧
      (Block.reset .xpp128).cidx = (Block.reset .xpp128).program.length := by decide

theorem witness_InstancesShareNothing :
    Instances.stepAt [issued .xpp128 7, issued .xpp256 8] 1 =
      some (.next [issued .xpp128 7, ⟨.xpp256, Config.default _, { Block.reset .xpp256 with
        dout := some 0xffffffffffffffff, cidx := 1, program := [⟨8, 0⟩] }⟩]) := rfl

theorem witness_importer_widths :
    2 * 16 = Form.width .xpp128 ∧ 2 * 32 = Form.width .xpp256 ∧ Form.width .xpp256 ≤ 64 ∧
      Form.width .xpp128 ≤ 32 ∧ (∀ n ∈ [15, 17, 31], n < Form.width .xpp128 ∧ 2 * n ≠ Form.width .xpp128) ∧
      ∀ n ∈ [31, 33, 63], n < Form.width .xpp256 ∧ 2 * n ≠ Form.width .xpp256 := by decide

end Sys2Proof.Tests
end

section
/-! The scope statements (spec/00_scope.md): the state transition as the matrix T (R11, R12), and `step` on
`⟨f, cfg, b⟩` as the machine that takes the form and the configuration as parameters (R2, R6). -/

namespace Sys2Proof

variable {f : Form}

@[simp] theorem LaneState.get_zero (n : Lane) : (LaneState.zero f).get n = 0 := by
  fin_cases n <;> rfl

@[simp] theorem LaneState.get_xor (x y : LaneState f) (n : Lane) :
    (x.xor y).get n = x.get n ^^^ y.get n := by
  fin_cases n <;> rfl

namespace Machine

/-! ### The state transition is linear -/

theorem stateRotation_lt_width (f : Form) : stateRotation f < f.width := by cases f <;> decide

theorem laneStep_xor (x y : LaneState f) : laneStep (x.xor y) = (laneStep x).xor (laneStep y) := by
  simp only [laneStep, LaneState.xor, shlW_xor, rotlW_xor _ _ (stateRotation_lt_width f), Quad.mk.injEq]
  refine ⟨?_, ?_, ?_, ?_⟩ <;> ac_rfl

/-- A linear map sends 0 to 0. -/
@[simp] theorem laneStep_zero : laneStep (LaneState.zero f) = LaneState.zero f := by
  simpa using laneStep_xor (LaneState.zero f) (LaneState.zero f)

/-! ### Selected XOR sums -/

/-- The XOR of the vectors `v j`, j < n, that `sel` selects: the sum that `applyT` and `polyApply` are. -/
def xorWhere (n : Nat) (sel : Nat → Bool) (v : Nat → LaneState f) : LaneState f :=
  (List.range n).foldl (fun acc j => if sel j then acc.xor (v j) else acc) (LaneState.zero f)

theorem applyT_eq_xorWhere (s : LaneState f) :
    applyT s = xorWhere (4 * f.width) (pack s).getLsbD (columnT f) := rfl

@[simp] theorem xorWhere_zero (sel : Nat → Bool) (v : Nat → LaneState f) :
    xorWhere 0 sel v = LaneState.zero f := rfl

theorem xorWhere_succ (n : Nat) (sel : Nat → Bool) (v : Nat → LaneState f) :
    xorWhere (n + 1) sel v = if sel n then (xorWhere n sel v).xor (v n) else xorWhere n sel v := by
  simp [xorWhere, List.range_succ]

theorem laneStep_xorWhere (n : Nat) (sel : Nat → Bool) (v : Nat → LaneState f) :
    laneStep (xorWhere n sel v) = xorWhere n sel fun j => laneStep (v j) := by
  induction n with
  | zero => simp
  | succ n ih =>
    simp only [xorWhere_succ]
    split
    · rw [laneStep_xor, ih]
    · exact ih

/-! ### The packing and its unit states -/

/-- State bit n·W + b is bit b of lane n (R12): by lane, from the bits of the appended words. -/
theorem pack_getLsbD (s : LaneState f) (n : Lane) {b : Nat} (hb : b < f.width) :
    (pack s).getLsbD (n.val * f.width + b) = (s.get n).getLsbD b := by
  simp only [pack, BitVec.getLsbD_append]
  fin_cases n <;> grind [Quad.get]

/-- The unit state e_j has the one bit at packed position j: by lane, as each lane covers W positions. -/
theorem unitState_getLsbD (j : Nat) (n : Lane) {b : Nat} (hb : b < f.width) :
    ((unitState f j).get n).getLsbD b = decide (n.val * f.width + b = j) := by
  fin_cases n <;> grind [unitState, Quad.get]

/-- A selected sum of unit states holds, at each packed position, the bit that selects it. -/
theorem xorWhere_unitState_getLsbD (k : Nat) (sel : Nat → Bool) (n : Lane) {b : Nat} (hb : b < f.width) :
    ((xorWhere k sel (unitState f)).get n).getLsbD b =
      (decide (n.val * f.width + b < k) && sel (n.val * f.width + b)) := by
  induction k with
  | zero => simp
  | succ k ih =>
    rw [xorWhere_succ]
    split
    · rw [LaneState.get_xor, BitVec.getLsbD_xor, ih, unitState_getLsbD k n hb]
      grind
    · grind

/-- A state is the sum of the unit states that its packed bits select. -/
theorem xorWhere_unitState_pack (s : LaneState f) :
    xorWhere (4 * f.width) (pack s).getLsbD (unitState f) = s := by
  refine Quad.ext_get fun n => BitVec.eq_of_getLsbD_eq fun b hb => ?_
  have hlt : n.val * f.width + b < 4 * f.width := by
    have hn : n.val * f.width ≤ 3 * f.width := Nat.mul_le_mul_right _ (Nat.le_of_lt_succ n.isLt)
    omega
  rw [xorWhere_unitState_getLsbD _ _ n hb, pack_getLsbD s n hb, decide_eq_true hlt, Bool.true_and]

/-- Settles O15: a state is the sum of its unit states, and a linear step acts on each of them alone. -/
theorem stepIsTheMatrixT : Obligations.StepIsTheMatrixT := by
  intro f s
  calc laneStep s
      = laneStep (xorWhere (4 * f.width) (pack s).getLsbD (unitState f)) := by rw [xorWhere_unitState_pack]
    _ = xorWhere (4 * f.width) (pack s).getLsbD (columnT f) := laneStep_xorWhere _ _ _
    _ = applyT s := (applyT_eq_xorWhere s).symm

/-! ### The machine with parameters, lifted -/

/-- A run from `⟨f, cfg, b⟩` is a run of the machine with parameters from `b`, lifted. -/
theorem core_run_eq_lift (cfg : Config f) (k : Nat) (b : Block f) :
    Host.Core.run Sys2Proof.core k (⟨f, cfg, b⟩ : State) = liftEffect cfg (Host.Core.run (coreOf cfg) k b) := by
  induction k generalizing b with
  | zero => rfl
  | succ k ih =>
    have hinst : Sys2Proof.core.step (⟨f, cfg, b⟩ : State) = liftEffect cfg (b.step cfg) := step_eq_lift cfg b
    have hparam : (coreOf cfg).step b = b.step cfg := rfl
    simp only [Host.Core.run, hinst, hparam]
    cases b.step cfg with
    | next b' => exact ih b'
    | fault r => rfl
    | refused r => rfl

/-- Settles O43: a step and a command are lifts by the model's laws, and a run by induction on its length. -/
theorem instanceRunsTheParametricMachine : Obligations.InstanceRunsTheParametricMachine :=
  fun _ cfg b => ⟨step_eq_lift cfg b, fun i => exec_eq_lift cfg i b, fun k => core_run_eq_lift cfg k b⟩

/-- A lifted effect keeps the form and the configuration (R2, R23). -/
theorem liftEffect_next_same_params {cfg : Config f} {e : Effect f} {t : State}
    (h : liftEffect cfg e = .next t) : ∃ b' : Block f, t = ⟨f, cfg, b'⟩ := by
  obtain ⟨b', -, rfl⟩ := liftEffect_next_iff.mp h
  exact ⟨b', rfl⟩

/-- Settles O42: every step and every command is a lifted effect on the block, and reset keeps both parameters. -/
theorem noCommandChangesFormOrConfig : Obligations.NoCommandChangesFormOrConfig :=
  fun _ cfg b =>
    ⟨fun _ h => liftEffect_next_same_params ((step_eq_lift cfg b).symm.trans h),
      fun i _ h => liftEffect_next_same_params ((exec_eq_lift cfg i b).symm.trans h),
      State.assertReset_eq _⟩

end Machine

end Sys2Proof
end

section
/-! The state statements (spec/10_state.md): what a completed command reads, writes and leaves (R13 to R15, R19),
and the consistency of the command index and the fault record (R85, R88). -/

namespace Sys2Proof

/-- Fields that the opcode map reads as a command are that command's own fields (R39). -/
theorem decodeOp_fields : ∀ (op : BitVec 4) (lane : BitVec 2),
    ∀ i ∈ decodeOp op lane, i.fields = ⟨0#26, lane, op⟩ := by decide

/-- A word that decodes to a command is that command's word (R39, R40). -/
theorem encode_of_decode {w : BitVec 32} {i : Instr} (h : decode w = some i) : encode i = w := by
  obtain ⟨hrsv, hop⟩ := Option.ite_none_right_eq_some.mp h
  have hfields : i.fields = CmdFields.ofWord w := by rw [decodeOp_fields _ _ i hop, ← hrsv]
  rw [encode, hfields, CmdFields.toWord_ofWord]

namespace Machine

variable {f : Form} {cfg : Config f} {i : Instr} {b b' : Block f} {n : Lane}

/-! ### What a completed command reads, writes and leaves -/

theorem Block.init_of_get {v : Word f} (h : b.lanes.get n = some v) : b.init n = true := by
  simp [Block.init, h]

theorem Block.init_of_full {v : LaneState f} (h : b.lanes = v.map some) (n : Lane) : b.init n = true :=
  Block.init_of_get (v := v.get n) (by rw [h, Quad.get_map])

theorem Block.din_isSome_of_current {c : Command f} (h : b.current = some c) : b.din.isSome = true := by
  simp [Block.din, h]

namespace Completes

/-- A completed command can write the lanes and DOUT and advances the index; the rest stays. -/
theorem eq_update (h : Completes cfg i b b') :
    b' = { b with lanes := b'.lanes, dout := b'.dout, cidx := b.cidx + 1 } := by
  cases i with
  | rdmin | rdmax => cases h; rfl
  | next | jump | ljump | seed | ldl | rdl => obtain ⟨_, -, rfl⟩ := h; rfl

theorem program_eq (h : Completes cfg i b b') : b'.program = b.program := by rw [h.eq_update]

theorem cidx_eq (h : Completes cfg i b b') : b'.cidx = b.cidx + 1 := by rw [h.eq_update]

theorem fault_eq (h : Completes cfg i b b') : b'.fault = b.fault := by rw [h.eq_update]

theorem init_of_lanesRead (h : Completes cfg i b b') (hn : n ∈ i.lanesRead) : b.init n = true := by
  cases i with
  | next | jump | ljump => obtain ⟨v, hv, -⟩ := h; exact Block.init_of_full hv n
  | rdl m =>
    obtain ⟨v, hv, -⟩ := h
    exact Block.init_of_get (List.mem_singleton.mp hn ▸ hv)
  | seed | ldl | rdmin | rdmax => cases hn

theorem init_of_lanesWritten (h : Completes cfg i b b') (hn : n ∈ i.lanesWritten) : b'.init n = true := by
  cases i with
  | next | jump | ljump | seed => obtain ⟨v, -, rfl⟩ := h; exact Block.init_of_full rfl n
  | ldl m =>
    obtain ⟨c, -, rfl⟩ := h
    cases List.mem_singleton.mp hn
    exact Block.init_of_get (Quad.get_set_self ..)
  | rdl | rdmin | rdmax => cases hn

theorem lanes_get_of_not_lanesWritten (h : Completes cfg i b b') (hn : n ∉ i.lanesWritten) :
    b'.lanes.get n = b.lanes.get n := by
  cases i with
  | next | jump | ljump | seed => exact absurd (by fin_cases n <;> decide) hn
  | ldl m =>
    obtain ⟨c, -, rfl⟩ := h
    exact Quad.get_set_of_ne _ _ (by simpa [Instr.lanesWritten] using hn)
  | rdl m => obtain ⟨v, -, rfl⟩ := h; rfl
  | rdmin | rdmax => cases h; rfl

/-- A command that writes no lane leaves all four. -/
theorem lanes_eq (h : Completes cfg i b b') (hi : i.lanesWritten = []) : b'.lanes = b.lanes :=
  Quad.ext_get fun _ => h.lanes_get_of_not_lanesWritten (by simp [hi])

theorem dout_isSome (h : Completes cfg i b b') (hi : i.writesDout = true) : b'.dout.isSome = true := by
  cases i with
  | next | rdl => obtain ⟨v, -, rfl⟩ := h; rfl
  | rdmin | rdmax => cases h; rfl
  | jump | ljump | seed | ldl => cases hi

theorem dout_eq (h : Completes cfg i b b') (hi : i.writesDout = false) : b'.dout = b.dout := by
  cases i with
  | jump | ljump | seed | ldl => obtain ⟨v, -, rfl⟩ := h; rfl
  | next | rdl | rdmin | rdmax => cases hi

theorem din_isSome (h : Completes cfg i b b') (hi : i.readsDin = true) : b.din.isSome = true := by
  cases i with
  | seed | ldl => obtain ⟨c, hc, -⟩ := h; exact Block.din_isSome_of_current hc
  | next | jump | ljump | rdl | rdmin | rdmax => cases hi

/-- A completed command clears no written mark (R14). -/
theorem init_mono (h : Completes cfg i b b') (hn : b.init n = true) : b'.init n = true := by
  by_cases hw : n ∈ i.lanesWritten
  · exact h.init_of_lanesWritten hw
  · rwa [Block.init, h.lanes_get_of_not_lanesWritten hw]

end Completes

/-! ### Next states at a known block -/

@[simp] theorem liftEffect_eq_next_mk {e : Effect f} :
    liftEffect cfg e = .next ⟨f, cfg, b'⟩ ↔ e = .next b' := by cases e <;> simp

/-- A command that answers a block without a record completed. -/
theorem completes_of_exec (h : exec i ⟨f, cfg, b⟩ = .next ⟨f, cfg, b'⟩) (hf : b'.fault = none) :
    Completes cfg i b b' := by
  rw [exec_eq_lift, liftEffect_eq_next_mk] at h
  obtain ⟨-, hc | ⟨-, rfl⟩⟩ := Block.exec_next_cases h
  · exact hc
  · cases hf

/-- A step completes a command without a record, or writes a record and nothing else (R31, R88). -/
theorem completes_or_record_of_step (h : step ⟨f, cfg, b⟩ = .next ⟨f, cfg, b'⟩) :
    (b'.fault = none ∧ ∃ i, Completes cfg i b b') ∨ ∃ r, b' = { b with fault := some r } := by
  rw [step_eq_lift, liftEffect_eq_next_mk] at h
  obtain ⟨hf, c, -, ⟨i, -, hc | ⟨-, rfl⟩⟩ | ⟨-, rfl⟩⟩ := Block.step_next_cases h
  · exact .inl ⟨hc.fault_eq.trans hf, i, hc⟩
  · exact .inr ⟨_, rfl⟩
  · exact .inr ⟨_, rfl⟩

/-! ### Frames, marks, DOUT and the index -/

/-- Settles O37: a completed command by the laws of `Completes`, a faulting one as it writes the record alone. -/
theorem commandFrame : Obligations.CommandFrame := by
  intro f cfg b i t h
  obtain ⟨hf, b', rfl, hc | ⟨-, rfl⟩⟩ := exec_next_cases h
  · refine ⟨b', rfl, hc.program_eq, fun hne => absurd (hc.fault_eq.trans hf) hne, fun _ =>
      ⟨hc.cidx_eq, fun hi => hc.lanes_eq ?_, fun n hi m hm => hc.lanes_get_of_not_lanesWritten ?_,
        fun hi => hc.dout_eq ?_⟩⟩
    · obtain hi | ⟨n, rfl⟩ := hi
      · fin_cases hi <;> rfl
      · rfl
    · subst hi; simpa [Instr.lanesWritten] using hm
    · obtain hi | ⟨n, rfl⟩ := hi
      · fin_cases hi <;> rfl
      · rfl
  · exact ⟨_, rfl, rfl, fun _ => ⟨rfl, rfl, rfl⟩, nofun⟩

/-- Settles O38: each clause is one of the laws of `Completes`. -/
theorem operandTablesDescribeEveryCommand : Obligations.OperandTablesDescribeEveryCommand := by
  intro f cfg b b' i h hf
  have hc := completes_of_exec h hf
  exact ⟨fun _ => hc.init_of_lanesRead, fun _ => hc.init_of_lanesWritten,
    fun _ => hc.lanes_get_of_not_lanesWritten, hc.dout_isSome, hc.dout_eq, hc.din_isSome⟩

/-- Settles O39: a written lane is marked, the other lanes stay, and a fault leaves all of them. -/
theorem writtenMarksOnlyGrow : Obligations.WrittenMarksOnlyGrow := by
  refine ⟨fun f n => by fin_cases n <;> rfl, fun f cfg b b' i h hf => ?_, fun f cfg b b' h n hn => ?_⟩
  · have hc := completes_of_exec h hf
    refine ⟨fun hi n => hc.init_of_lanesWritten ?_, fun n hi => hc.init_of_lanesWritten ?_⟩
    · fin_cases hi <;> fin_cases n <;> decide
    · subst hi; exact List.mem_singleton_self n
  · obtain ⟨-, i, hc⟩ | ⟨r, rfl⟩ := completes_or_record_of_step h
    · exact hc.init_mono hn
    · exact hn

/-- Settles O40: the four commands of each clause have their entry in the table of DOUT's writers. -/
theorem doutIsWrittenByReadsOnly : Obligations.DoutIsWrittenByReadsOnly := by
  refine ⟨fun _ _ => rfl, fun f cfg b b' i h hf => ?_⟩
  have hc := completes_of_exec h hf
  refine ⟨fun hi => Option.isSome_iff_exists.mp (hc.dout_isSome ?_), fun hi => hc.dout_eq ?_⟩
  all_goals
    obtain hi | ⟨n, rfl⟩ := hi
    · fin_cases hi <;> rfl
    · rfl

/-- Settles O41: a step completes a command or writes a record alone. -/
theorem commandIndexAdvancesByOne : Obligations.CommandIndexAdvancesByOne := by
  refine ⟨fun _ _ => rfl, fun f cfg b b' h => ?_⟩
  obtain ⟨hf, i, hc⟩ | ⟨r, rfl⟩ := completes_or_record_of_step h
  · exact ⟨hc.program_eq, fun _ => hc.cidx_eq, fun hne => absurd hf hne⟩
  · exact ⟨rfl, nofun, fun _ => rfl⟩

/-! ### Consistency -/

theorem Block.cidx_lt_of_current {c : Command f} (h : b.current = some c) : b.cidx < b.program.length :=
  (List.getElem?_eq_some_iff.mp h).1

/-- Without a record, consistency is the bound on the index. -/
theorem State.consistent_of_unfaulted (hf : b.fault = none) (hle : b.cidx ≤ b.program.length) :
    State.consistent ⟨f, cfg, b⟩ :=
  ⟨hle, fun r hr => by simp [hf] at hr⟩

/-- A record written over an unchanged block is consistent when it is precise for that block. -/
theorem State.consistent_of_record {r : FaultRecord} (hle : b.cidx ≤ b.program.length)
    (hr : faultPrecise b r) : State.consistent ⟨f, cfg, { b with fault := some r }⟩ :=
  ⟨hle, fun _ h => Option.some.inj h ▸ hr⟩

/-- The record of a faulting command is precise: the command on the port reads an unwritten lane (R88). -/
theorem faultPrecise_uninit {c : Command f} (hc : b.current = some c) (hd : decode c.cmd = some i)
    (hread : ∃ n ∈ i.lanesRead, b.lanes.get n = none) : faultPrecise b ⟨.uninit, encode i⟩ :=
  ⟨c, hc, encode_of_decode hd, i, hd, by simpa [readsUnwritten] using hread⟩

/-- Settles O45: a completed command had the index below the list's length, and a record is written over an
unchanged block for one of the two causes. -/
theorem stepKeepsConsistent : Obligations.StepKeepsConsistent := by
  rintro ⟨f, cfg, b⟩ t ⟨hle, -⟩ h
  obtain ⟨hf, c, b', hcur, rfl, ⟨i, hd, hc | ⟨hread, rfl⟩⟩ | ⟨hd, rfl⟩⟩ := step_next_cases h
  · refine State.consistent_of_unfaulted (hc.fault_eq.trans hf) ?_
    rw [hc.cidx_eq, hc.program_eq]
    exact Block.cidx_lt_of_current hcur
  · exact State.consistent_of_record hle (faultPrecise_uninit hcur hd hread)
  · exact State.consistent_of_record hle ⟨c, hcur, rfl, hd⟩

/-- A command on the port stays there when another joins the end of the list. -/
theorem State.current_issue {s : State} {x : Command s.form} (c : Command s.form) (h : s.block.current = some x) :
    (s.issue c).block.current = some x :=
  (List.getElem?_append_left (Block.cidx_lt_of_current h)).trans h

/-- Settles O46: reset has no record and an empty list; an issue lengthens the list and keeps the port. -/
theorem resetAndIssueAreConsistent : Obligations.ResetAndIssueAreConsistent := by
  refine ⟨fun f cfg => State.consistent_of_unfaulted rfl (Nat.le_refl 0), fun s c ⟨hle, hprecise⟩ => ⟨?_, ?_⟩⟩
  · exact hle.trans (by simp [State.issue])
  · intro r hr
    obtain ⟨x, hx, hcause⟩ := hprecise r hr
    exact ⟨x, State.current_issue c hx, hcause⟩

/-! ### Reset -/

/-- Settles O48: each piece of state by the definition of reset, and MAX as the word of all ones. -/
theorem resetStateIsAsListed : Obligations.ResetStateIsAsListed := by
  refine fun f => ⟨fun n => ?_, rfl, rfl, rfl, rfl, rfl, BitVec.toNat_zero, BitVec.toNat_allOnes⟩
  fin_cases n <;> exact ⟨rfl, rfl⟩

end Machine

end Sys2Proof
end

section
/-! `laneStep` is injective (spec/40_generator.md R49), and the scan of a table is the table's polynomial in
`laneStep` (spec/41_jump.md R57). -/

namespace Sys2Proof.Machine

variable {f : Form}

/-! ### Rotations and shifts have trivial kernels -/

theorem shiftAmount_pos (f : Form) : 0 < shiftAmount f := by cases f <;> decide

theorem stateRotation_pos (f : Form) : 0 < stateRotation f := by cases f <;> decide

@[simp] theorem rotlW_zero (k : Nat) : rotlW (0 : Word f) k = 0 := by
  simp [rotlW, shlW, shrW]

/-- Rotating by W − k and then by k is no rotation. -/
theorem rotlW_rotlW_sub (a : Word f) {k : Nat} (hpos : 0 < k) (hk : k < f.width) :
    rotlW (rotlW a (f.width - k)) k = a := by
  refine BitVec.eq_of_getLsbD_eq fun i hi => ?_
  rw [rotlW_getLsbD _ hk hi]
  split
  · rw [rotlW_getLsbD _ (by omega) (by omega), if_neg (by omega)]
    congr 1; omega
  · rw [rotlW_getLsbD _ (by omega) (by omega), if_pos (by omega)]
    congr 1; omega

theorem eq_zero_of_rotlW_eq_zero {a : Word f} {k : Nat} (hpos : 0 < k) (hk : k < f.width)
    (h : rotlW a k = 0) : a = 0 := by
  have hinv := rotlW_rotlW_sub a (k := f.width - k) (by omega) (by omega)
  rwa [Nat.sub_sub_self hk.le, h, rotlW_zero, eq_comm] at hinv

/-- Only 0 equals its own left shift: each bit is 0 because the lower ones are. -/
theorem eq_zero_of_eq_shlW {a : Word f} {k : Nat} (hpos : 0 < k) (h : a = shlW a k) : a = 0 := by
  have hbit (i : Nat) : a.getLsbD i = false := by
    induction i using Nat.strong_induction_on with
    | _ i ih =>
      rw [h, shlW, BitVec.getLsbD_shiftLeft]
      by_cases hi : i < k
      · simp [hi]
      · rw [ih (i - k) (by omega), Bool.and_false]
  exact BitVec.eq_of_getLsbD_eq fun i _ => by rw [hbit]; simp

/-! ### `laneStep` is injective -/

theorem LaneState.eq_of_xor_eq_zero {x y : LaneState f} (h : x.xor y = LaneState.zero f) : x = y :=
  Quad.ext_get fun n => by simpa using congrArg (Quad.get · n) h

theorem eq_zero_of_laneStep_eq_zero {s : LaneState f} (h : laneStep s = LaneState.zero f) :
    s = LaneState.zero f := by
  obtain ⟨a, b, c, d⟩ := s
  simp only [laneStep, LaneState.zero, Quad.mk.injEq] at h
  obtain ⟨ha, hb, hc, hd⟩ := h
  have hdb := eq_zero_of_rotlW_eq_zero (stateRotation_pos f) (stateRotation_lt_width f) hd
  obtain rfl : a = 0 := by simpa [hdb] using ha
  obtain rfl : d = b := BitVec.xor_eq_zero_iff.mp hdb
  obtain rfl : d = c := BitVec.xor_eq_zero_iff.mp (by simpa using hb)
  obtain rfl : d = 0 :=
    eq_zero_of_eq_shlW (shiftAmount_pos f) (BitVec.xor_eq_zero_iff.mp (by simpa using hc))
  rfl

theorem laneStep_injective : Function.Injective (laneStep (f := f)) := fun x y h =>
  LaneState.eq_of_xor_eq_zero <| eq_zero_of_laneStep_eq_zero <| by rw [laneStep_xor, h, LaneState.xor_self]

theorem laneStep_iterate_xor (k : Nat) (x y : LaneState f) :
    laneStep^[k] (x.xor y) = (laneStep^[k] x).xor (laneStep^[k] y) := by
  induction k generalizing x y with
  | zero => rfl
  | succ k ih => rw [Function.iterate_succ_apply, laneStep_xor, ih]; rfl

@[simp] theorem laneStep_iterate_zero (k : Nat) : laneStep^[k] (LaneState.zero f) = LaneState.zero f :=
  Function.iterate_fixed laneStep_zero k

theorem laneStep_iterate_ne_zero {s : LaneState f} (h : s ≠ LaneState.zero f) (k : Nat) :
    laneStep^[k] s ≠ LaneState.zero f := fun h0 =>
  h (laneStep_injective.iterate k (h0.trans (laneStep_iterate_zero k).symm))

/-! ### More on selected XOR sums -/

variable {n : Nat} {sel sel' : Nat → Bool} {v v' : Nat → LaneState f}

theorem LaneState.xor_xor_xor_comm (x y z w : LaneState f) :
    (x.xor y).xor (z.xor w) = (x.xor z).xor (y.xor w) :=
  Quad.ext_get fun n => by simp only [LaneState.get_xor]; ac_rfl

/-- A sum by its last term. -/
theorem xorWhere_succ_term : xorWhere (n + 1) sel v =
    (xorWhere n sel v).xor (if sel n then v n else LaneState.zero f) := by
  rw [xorWhere_succ]; split <;> simp

/-- A sum by its first term. -/
theorem xorWhere_succ_first : xorWhere (n + 1) sel v =
    (if sel 0 then v 0 else LaneState.zero f).xor (xorWhere n (fun k => sel (k + 1)) fun k => v (k + 1)) := by
  induction n with
  | zero => simp [xorWhere_succ_term]
  | succ n ih => rw [xorWhere_succ_term, ih, LaneState.xor_assoc, ← xorWhere_succ_term]

theorem xorWhere_congr (h : ∀ k < n, sel k = sel' k) : xorWhere n sel v = xorWhere n sel' v := by
  induction n with
  | zero => rfl
  | succ n ih => rw [xorWhere_succ_term, xorWhere_succ_term, ih fun k hk => h k (by omega), h n (by omega)]

theorem xorWhere_xor_sel : xorWhere n (fun k => sel k ^^ sel' k) v = (xorWhere n sel v).xor (xorWhere n sel' v) := by
  induction n with
  | zero => simp
  | succ n ih =>
    simp only [xorWhere_succ_term, ih]
    rw [LaneState.xor_xor_xor_comm]
    congr 1
    cases sel n <;> cases sel' n <;> simp

theorem xorWhere_xor_testBit (p q : Nat) :
    xorWhere n (p ^^^ q).testBit v = (xorWhere n p.testBit v).xor (xorWhere n q.testBit v) := by
  simp only [← xorWhere_xor_sel, ← Nat.testBit_xor]

theorem xorWhere_xor : xorWhere n sel (fun k => (v k).xor (v' k)) = (xorWhere n sel v).xor (xorWhere n sel v') := by
  induction n with
  | zero => simp
  | succ n ih =>
    simp only [xorWhere_succ_term, ih]
    rw [LaneState.xor_xor_xor_comm]
    congr 1
    split <;> simp

@[simp] theorem xorWhere_false : xorWhere n (fun _ => false) v = LaneState.zero f := by
  induction n with
  | zero => rfl
  | succ n ih => rw [xorWhere_succ_term, ih]; simp

@[simp] theorem xorWhere_testBit_zero : xorWhere n (Nat.testBit 0) v = LaneState.zero f :=
  (xorWhere_congr fun k _ => Nat.zero_testBit k).trans xorWhere_false

/-! ### A polynomial in `laneStep` -/

/-- p(T) · s for the polynomial whose coefficient of x^k is bit `k` of `p`, below degree 4W (R57). -/
def evalPoly (p : Nat) (s : LaneState f) : LaneState f :=
  xorWhere (4 * f.width) p.testBit fun k => laneStep^[k] s

theorem evalPoly_xor_poly (p q : Nat) (s : LaneState f) :
    evalPoly (p ^^^ q) s = (evalPoly p s).xor (evalPoly q s) := xorWhere_xor_testBit p q

theorem evalPoly_xor (p : Nat) (x y : LaneState f) : evalPoly p (x.xor y) = (evalPoly p x).xor (evalPoly p y) := by
  simp only [evalPoly, laneStep_iterate_xor, xorWhere_xor]

theorem evalPoly_laneStep (p : Nat) (s : LaneState f) : evalPoly p (laneStep s) = laneStep (evalPoly p s) := by
  simp only [evalPoly, laneStep_xorWhere, ← Function.iterate_succ_apply', Function.iterate_succ_apply]

@[simp] theorem evalPoly_zero_poly (s : LaneState f) : evalPoly 0 s = LaneState.zero f := xorWhere_testBit_zero

@[simp] theorem evalPoly_zero (p : Nat) : evalPoly p (LaneState.zero f) = LaneState.zero f := by
  simpa using evalPoly_xor p (LaneState.zero f) (LaneState.zero f)

theorem evalPoly_one (s : LaneState f) : evalPoly 1 s = s := by
  obtain ⟨m, hm⟩ : ∃ m, 4 * f.width = m + 1 := ⟨4 * f.width - 1, by have := f.width_pos; omega⟩
  rw [evalPoly, hm, xorWhere_succ_first]
  simp [Nat.testBit_succ]

/-! ### The scan of a table -/

/-- The engine's values after `k` bits of a table (R57). -/
def scanAt (s : LaneState f) (tab : Quad (Word f)) (k : Nat) : JumpScan f :=
  ⟨xorWhere k (pack tab).getLsbD fun j => laneStep^[j] s, laneStep^[k] s⟩

theorem bit_scanAt (s : LaneState f) (tab : Quad (Word f)) (n : Lane) {b : Nat} (hb : b < f.width) :
    JumpScan.bit (tab.get n) (scanAt s tab (n.val * f.width + b)) b = scanAt s tab (n.val * f.width + (b + 1)) := by
  simp only [JumpScan.bit, scanAt, ← pack_getLsbD tab n hb, ← Nat.add_assoc, xorWhere_succ,
    Function.iterate_succ_apply']

/-- The first `m` bits of word `n` take the scan `m` bits further. -/
theorem bits_scanAt (s : LaneState f) (tab : Quad (Word f)) (n : Lane) {m : Nat} (hm : m ≤ f.width) :
    (List.range m).foldl (JumpScan.bit (tab.get n)) (scanAt s tab (n.val * f.width)) =
      scanAt s tab (n.val * f.width + m) := by
  induction m with
  | zero => rfl
  | succ m ih => simp [List.range_succ, ih (by omega), bit_scanAt s tab n (show m < f.width by omega)]

/-- Word `n` takes the scan W bits further. -/
theorem word_scanAt (s : LaneState f) (tab : Quad (Word f)) (n : Lane) {k : Nat} (hk : n.val = k) :
    (scanAt s tab (k * f.width)).word (tab.get n) = scanAt s tab ((k + 1) * f.width) := by
  subst hk
  rw [Nat.succ_mul]
  exact bits_scanAt s tab n (Nat.le_refl _)

/-- The whole scan: the table's polynomial at `s`, and `s` advanced by 4W steps. -/
theorem scan_table (s : LaneState f) (tab : Quad (Word f)) :
    (tableWords tab).foldl JumpScan.word ⟨LaneState.zero f, s⟩ =
      ⟨evalPoly (pack tab).toNat s, laneStep^[4 * f.width] s⟩ := by
  have hstart : scanAt s tab (0 * f.width) = ⟨LaneState.zero f, s⟩ := by rw [Nat.zero_mul]; rfl
  calc (tableWords tab).foldl JumpScan.word ⟨LaneState.zero f, s⟩
      = ((((scanAt s tab (0 * f.width)).word (tab.get 0)).word (tab.get 1)).word (tab.get 2)).word (tab.get 3) := by
        rw [hstart]; rfl
    _ = scanAt s tab (4 * f.width) := by
        rw [word_scanAt s tab 0 (k := 0) rfl, word_scanAt s tab 1 (k := 1) rfl, word_scanAt s tab 2 (k := 2) rfl,
          word_scanAt s tab 3 (k := 3) rfl]

theorem jumpPoly_eq_evalPoly (s : LaneState f) (tab : Quad (Word f)) :
    jumpPoly s tab = evalPoly (pack tab).toNat s := by
  rw [jumpPoly, scan_table]

end Sys2Proof.Machine
end

section
/-! The jumps are powers of `laneStep` (spec/41_jump.md R61): it satisfies its characteristic polynomial, so squaring
a polynomial modulo that one doubles the number of steps, and the default tables are repeated squares of x. -/

namespace Sys2Proof.Machine

variable {f : Form}

/-- A packed position lies in one lane (R12). -/
theorem exists_lane_of_lt {j : Nat} (hj : j < 4 * f.width) :
    ∃ (n : Lane) (b : Nat), b < f.width ∧ j = n.val * f.width + b :=
  ⟨⟨j / f.width, Nat.div_lt_of_lt_mul (by rwa [Nat.mul_comm])⟩, j % f.width, Nat.mod_lt j f.width_pos,
    (Nat.div_add_mod' j f.width).symm⟩

/-! ### Invariant subspaces of the state transition -/

/-- A set of states closed under XOR and under `laneStep`. -/
structure StepSubspace (P : LaneState f → Prop) : Prop where
  zero : P (LaneState.zero f)
  xor {x y : LaneState f} : P x → P y → P (x.xor y)
  step {x : LaneState f} : P x → P (laneStep x)

namespace StepSubspace

variable {P : LaneState f → Prop}

theorem xorWhere_mem (hP : StepSubspace P) {n : Nat} {sel : Nat → Bool} {v : Nat → LaneState f}
    (h : ∀ j < n, sel j = true → P (v j)) : P (xorWhere n sel v) := by
  induction n with
  | zero => exact hP.zero
  | succ n ih =>
    have hn := ih fun j hj => h j (by omega)
    rw [xorWhere_succ]
    split
    · exact hP.xor hn (h n (by omega) ‹_›)
    · exact hn

/-- From `x ^ y` and `y`, the state `x`. -/
theorem of_xor (hP : StepSubspace P) {x y z : LaneState f} (hz : P z) (hy : P y) (h : z = x.xor y) : P x := by
  have hx : x = z.xor y := by rw [h, LaneState.xor_assoc, LaneState.xor_self, LaneState.xor_zero]
  rw [hx]
  exact hP.xor hz hy

/-- Lane 2 generates every state: `laneStep` carries it to lane 1, from there to lanes 0 and 3 together, and those
come apart under one more step. -/
theorem all_of_lane2 (hP : StepSubspace P) (h2 : ∀ c : Word f, P ⟨0, 0, c, 0⟩) (s : LaneState f) : P s := by
  have h1 (b : Word f) : P ⟨0, b, 0, 0⟩ :=
    hP.of_xor (hP.step (h2 b)) (h2 b) (by simp [laneStep, LaneState.xor, shlW, rotlW, shrW])
  have h03 (b : Word f) : P ⟨b, 0, 0, rotlW b (stateRotation f)⟩ :=
    hP.of_xor (hP.step (h1 b)) (hP.xor (h1 b) (h2 (shlW b (shiftAmount f)))) (by simp [laneStep, LaneState.xor])
  have h0 (a : Word f) : P ⟨a, 0, 0, 0⟩ :=
    hP.of_xor (hP.step (h03 a)) (hP.xor (h03 (rotlW a (stateRotation f))) (hP.xor (h1 a) (h2 a)))
      (by simp [laneStep, LaneState.xor, shlW])
  have h3 (d : Word f) : P ⟨0, 0, 0, d⟩ :=
    hP.of_xor (h03 (rotlW d (f.width - stateRotation f))) (h0 (rotlW d (f.width - stateRotation f)))
      (by simp [LaneState.xor, rotlW_rotlW_sub d (stateRotation_pos f) (stateRotation_lt_width f)])
  have hs : s = LaneState.xor (LaneState.xor ⟨s.q0, 0, 0, 0⟩ ⟨0, s.q1, 0, 0⟩)
      (LaneState.xor ⟨0, 0, s.q2, 0⟩ ⟨0, 0, 0, s.q3⟩) := by simp [LaneState.xor]
  rw [hs]
  exact hP.xor (hP.xor (h0 _) (h1 _)) (hP.xor (h2 _) (h3 _))

/-- The unit states of lane 2 suffice. -/
theorem all_of_lane2_units (hP : StepSubspace P) (h : ∀ b < f.width, P (unitState f (2 * f.width + b)))
    (s : LaneState f) : P s := by
  refine hP.all_of_lane2 (fun c => ?_) s
  rw [← xorWhere_unitState_pack ⟨0, 0, c, 0⟩]
  refine hP.xorWhere_mem fun j hj hbit => ?_
  obtain ⟨n, b, hb, rfl⟩ := exists_lane_of_lt hj
  rw [pack_getLsbD _ n hb] at hbit
  fin_cases n
  · simp at hbit
  · simp at hbit
  · exact h b hb
  · simp at hbit

end StepSubspace

/-! ### The characteristic polynomial -/

/-- The coefficients of the characteristic polynomial of `laneStep` below x^(4W), in the packing of a jump table
(R57). Found outside Lean by the Berlekamp-Massey algorithm; `laneStep_iterate_eq_evalPoly` shows that it
annihilates `laneStep`. -/
def charTable : (f : Form) → Quad (Word f)
  | .xpp128 => ⟨0xde18fc01#32, 0x1b489db6#32, 0x006254b1#32, 0x00fc65a2#32⟩
  | .xpp256 => ⟨0x9d116f2bb0f0f001#64, 0x0280002bcefd1a5e#64, 0x04b4edcf26259f85#64, 0x0003c03c3f3ecb19#64⟩

/-- The engine's values after scanning `charTable` from `s`. -/
def charScan (s : LaneState f) : JumpScan f :=
  (tableWords (charTable f)).foldl JumpScan.word ⟨LaneState.zero f, s⟩

/-- Computed: 4W steps and the polynomial agree on the unit states of lane 2. -/
theorem charScan_units (f : Form) :
    ∀ b < f.width, (charScan (unitState f (2 * f.width + b))).acc = (charScan (unitState f (2 * f.width + b))).cur := by
  cases f <;> decide +kernel

theorem charScan_eq (s : LaneState f) :
    charScan s = ⟨evalPoly (pack (charTable f)).toNat s, laneStep^[4 * f.width] s⟩ := scan_table s (charTable f)

/-- The Cayley-Hamilton identity of `laneStep`: 4W steps are the lower part of the characteristic polynomial. -/
theorem laneStep_iterate_eq_evalPoly (s : LaneState f) :
    laneStep^[4 * f.width] s = evalPoly (pack (charTable f)).toNat s := by
  have hsub : StepSubspace fun s : LaneState f =>
      laneStep^[4 * f.width] s = evalPoly (pack (charTable f)).toNat s :=
    { zero := by simp
      xor := fun hx hy => by rw [laneStep_iterate_xor, evalPoly_xor, hx, hy]
      step := fun hx => by
        rw [evalPoly_laneStep, ← hx, ← Function.iterate_succ_apply, Function.iterate_succ_apply'] }
  refine hsub.all_of_lane2_units (fun b hb => ?_) s
  simpa [charScan_eq] using (charScan_units f b hb).symm

/-! ### Multiplication modulo the characteristic polynomial -/

/-- The characteristic polynomial of `laneStep`, the coefficient of x^k at bit `k`. -/
def charPoly (f : Form) : Nat := 2 ^ (4 * f.width) ^^^ (pack (charTable f)).toNat

theorem charPoly_testBit_top (f : Form) : (charPoly f).testBit (4 * f.width) = true := by
  rw [charPoly, Nat.testBit_xor, Nat.testBit_two_pow_self, BitVec.testBit_toNat, BitVec.getLsbD_of_ge _ _ (by omega)]
  rfl

theorem xorWhere_charPoly (s : LaneState f) :
    xorWhere (4 * f.width + 1) (charPoly f).testBit (fun k => laneStep^[k] s) = LaneState.zero f := by
  have hlow : xorWhere (4 * f.width) (charPoly f).testBit (fun k => laneStep^[k] s) = laneStep^[4 * f.width] s := by
    refine (xorWhere_congr fun k hk => ?_).trans (laneStep_iterate_eq_evalPoly s).symm
    rw [charPoly, Nat.testBit_xor, Nat.testBit_two_pow_of_ne (by omega), Bool.false_xor]
  rw [xorWhere_succ_term, charPoly_testBit_top, if_pos rfl, hlow, LaneState.xor_self]

/-- Multiplication by x: shift, and cancel a coefficient of x^(4W). -/
def timesX (f : Form) (p : Nat) : Nat := 2 * p ^^^ 2 * p / 2 ^ (4 * f.width) % 2 * charPoly f

theorem timesX_eq (p : Nat) :
    timesX f p = 2 * p ^^^ if (2 * p).testBit (4 * f.width) then charPoly f else 0 := by
  rw [timesX, ← Nat.toNat_testBit]
  cases (2 * p).testBit (4 * f.width) <;> simp

theorem timesX_testBit_top (p : Nat) : (timesX f p).testBit (4 * f.width) = false := by
  rw [timesX_eq, Nat.testBit_xor]
  split <;> simp_all [charPoly_testBit_top]

/-- The shift by one, with the coefficient of x^(4W) kept. -/
theorem xorWhere_two_mul (p : Nat) (s : LaneState f) :
    xorWhere (4 * f.width + 1) (2 * p).testBit (fun k => laneStep^[k] s) = laneStep (evalPoly p s) := by
  rw [xorWhere_succ_first, evalPoly, laneStep_xorWhere]
  simp [Nat.testBit_succ, Function.iterate_succ_apply']

theorem evalPoly_timesX (p : Nat) (s : LaneState f) : evalPoly (timesX f p) s = laneStep (evalPoly p s) := by
  have htop : evalPoly (timesX f p) s = xorWhere (4 * f.width + 1) (timesX f p).testBit fun k => laneStep^[k] s := by
    rw [xorWhere_succ_term, timesX_testBit_top]; simp [evalPoly]
  rw [htop, timesX_eq, xorWhere_xor_testBit, xorWhere_two_mul]
  split
  · rw [xorWhere_charPoly, LaneState.xor_zero]
  · rw [xorWhere_testBit_zero, LaneState.xor_zero]

/-- The product of `p` and the polynomial of the `k` low bits of `q`, by Horner's scheme. -/
def mulPoly (f : Form) (p : Nat) : Nat → Nat → Nat
  | 0, _ => 0
  | k + 1, q => q % 2 * p ^^^ timesX f (mulPoly f p k (q / 2))

theorem evalPoly_mulPoly (p k q : Nat) (s : LaneState f) :
    evalPoly (mulPoly f p k q) s = xorWhere k q.testBit fun j => laneStep^[j] (evalPoly p s) := by
  induction k generalizing q with
  | zero => simp [mulPoly]
  | succ k ih =>
    rw [mulPoly, evalPoly_xor_poly, evalPoly_timesX, ih, laneStep_xorWhere, xorWhere_succ_first]
    simp only [Nat.testBit_succ, Function.iterate_succ_apply']
    congr 1
    rcases Nat.mod_two_eq_zero_or_one q with h | h <;> simp [h]

/-- The square of `p` modulo the characteristic polynomial. -/
def squarePoly (f : Form) (p : Nat) : Nat := mulPoly f p (4 * f.width) p

theorem evalPoly_squarePoly (p : Nat) (s : LaneState f) :
    evalPoly (squarePoly f p) s = evalPoly p (evalPoly p s) := evalPoly_mulPoly p _ p s

/-! ### Powers of x -/

/-- `p` is x^m modulo the characteristic polynomial: it advances every state by `m` steps. -/
def IsPowerOfX (f : Form) (p m : Nat) : Prop := ∀ s : LaneState f, evalPoly p s = laneStep^[m] s

theorem isPowerOfX_one (f : Form) : IsPowerOfX f (timesX f 1) 1 := fun s => by
  rw [evalPoly_timesX, evalPoly_one]; rfl

/-- Squaring doubles the number of steps. -/
theorem IsPowerOfX.square {p m : Nat} (h : IsPowerOfX f p m) : IsPowerOfX f (squarePoly f p) (2 * m) := fun s => by
  rw [evalPoly_squarePoly, h, h, ← Function.iterate_add_apply, Nat.two_mul]

theorem IsPowerOfX.iterate_square {p m : Nat} (h : IsPowerOfX f p m) (k : Nat) :
    IsPowerOfX f ((squarePoly f)^[k] p) (2 ^ k * m) := by
  induction k with
  | zero => simpa using h
  | succ k ih =>
    rw [Function.iterate_succ_apply', Nat.pow_succ', Nat.mul_assoc]
    exact ih.square

/-! ### The default tables -/

/-- JUMP's table is x^(2^(2W)): 2W squarings of x. -/
theorem iterate_squarePoly_x (f : Form) :
    (squarePoly f)^[2 * f.width] (timesX f 1) = (pack (defaultJumpTable f)).toNat := by
  cases f <;> decide +kernel

/-- LJUMP's table is W squarings further, x^(2^(3W)). -/
theorem iterate_squarePoly_jumpTable (f : Form) :
    (squarePoly f)^[f.width] (pack (defaultJumpTable f)).toNat = (pack (defaultLongJumpTable f)).toNat := by
  cases f <;> decide +kernel

theorem isPowerOfX_jumpTable (f : Form) :
    IsPowerOfX f (pack (defaultJumpTable f)).toNat (2 ^ (2 * f.width)) := by
  simpa [iterate_squarePoly_x] using (isPowerOfX_one f).iterate_square (2 * f.width)

theorem isPowerOfX_longJumpTable (f : Form) :
    IsPowerOfX f (pack (defaultLongJumpTable f)).toNat (2 ^ (3 * f.width)) := by
  have h := (isPowerOfX_jumpTable f).iterate_square f.width
  rwa [iterate_squarePoly_jumpTable, ← Nat.pow_add, show f.width + 2 * f.width = 3 * f.width by omega] at h

/-- JUMP with the default table is 2^(2W) steps (R4, R61). -/
theorem jumpPoly_default (s : LaneState f) :
    jumpPoly s (Config.default f).jumpTable = laneStep^[2 ^ (2 * f.width)] s :=
  (jumpPoly_eq_evalPoly s _).trans (isPowerOfX_jumpTable f s)

/-- LJUMP with the default table is 2^(3W) steps (R4, R61). -/
theorem jumpPoly_default_long (s : LaneState f) :
    jumpPoly s (Config.default f).longJumpTable = laneStep^[2 ^ (3 * f.width)] s :=
  (jumpPoly_eq_evalPoly s _).trans (isPowerOfX_longJumpTable f s)

theorem jumpPoly_default_ne_zero {s : LaneState f} (h : s ≠ LaneState.zero f) :
    jumpPoly s (Config.default f).jumpTable ≠ LaneState.zero f := by
  rw [jumpPoly_default]
  exact laneStep_iterate_ne_zero h _

theorem jumpPoly_default_long_ne_zero {s : LaneState f} (h : s ≠ LaneState.zero f) :
    jumpPoly s (Config.default f).longJumpTable ≠ LaneState.zero f := by
  rw [jumpPoly_default_long]
  exact laneStep_iterate_ne_zero h _

end Sys2Proof.Machine
end

section
/-! No command but LDL makes the state all-zero (spec/10_state.md R16): SEED by R74, the generator and the jumps as
powers of an injective step (R63). -/

namespace Sys2Proof.Machine

variable {f : Form}

/-! ### The default mixers are injective -/

theorem shrW_xor (a b : Word f) (k : Nat) : shrW (a ^^^ b) k = shrW a k ^^^ shrW b k :=
  BitVec.ushiftRight_xor_distrib a b k

theorem eq_zero_of_eq_shrW {a : Word f} {k : Nat} (hpos : 0 < k) (h : a = shrW a k) : a = 0 := by
  have hval : a.toNat = a.toNat / 2 ^ k := by rw [← shrW_toNat, ← h]
  refine BitVec.eq_of_toNat_eq ?_
  by_contra hne
  have := Nat.div_lt_self (Nat.pos_of_ne_zero hne) (Nat.one_lt_two_pow hpos.ne')
  omega

/-- A mixer step that is injective: a shift by at least 1, or an odd factor (R73). -/
def MixStep.Invertible : MixStep f → Prop
  | .xorShift k => 0 < k.val
  | .mul m => m.toNat % 2 = 1

theorem mulW_right_injective {m : Word f} (hodd : m.toNat % 2 = 1) : Function.Injective (mulW · m) := by
  intro a b h
  have hmod : a.toNat * m.toNat ≡ b.toNat * m.toNat [MOD 2 ^ f.width] := by
    simpa only [mulW_toNat, Nat.ModEq] using congrArg BitVec.toNat h
  have hcop : Nat.gcd (2 ^ f.width) m.toNat = 1 :=
    Nat.Coprime.pow_left _ (Nat.coprime_two_left.mpr (Nat.odd_iff.mpr hodd))
  exact BitVec.eq_of_toNat_eq ((Nat.ModEq.cancel_right_of_coprime hcop hmod).eq_of_lt_of_lt a.isLt b.isLt)

theorem MixStep.apply_injective {m : MixStep f} (hm : m.Invertible) : Function.Injective m.apply := by
  cases m with
  | mul m => exact mulW_right_injective hm
  | xorShift k =>
    intro a b h
    have hker : a ^^^ b = shrW (a ^^^ b) k.val := by
      rw [shrW_xor, ← BitVec.xor_eq_zero_iff]
      refine Eq.trans ?_ (BitVec.xor_eq_zero_iff.mpr h)
      simp only [MixStep.apply]
      ac_rfl
    exact BitVec.xor_eq_zero_iff.mp (eq_zero_of_eq_shrW hm hker)

theorem runMixer_injective {steps : List (MixStep f)} (h : ∀ m ∈ steps, m.Invertible) :
    Function.Injective (runMixer steps) := by
  induction steps with
  | nil => exact Function.injective_id
  | cons m steps ih =>
    obtain ⟨hm, hsteps⟩ := List.forall_mem_cons.mp h
    exact (ih hsteps).comp (MixStep.apply_injective hm)

theorem defaultMixSteps_invertible (f : Form) : ∀ m ∈ defaultMixSteps f, m.Invertible := by
  cases f <;> simp [defaultMixSteps, mix32Steps, mix64Steps, MixStep.Invertible]

theorem default_mix_injective (f : Form) : Function.Injective (Config.default f).mix :=
  runMixer_injective (defaultMixSteps_invertible f)

/-- The first two lanes of an expansion differ, since they mix different values (R74). -/
theorem expand_default_ne_zero (seed : Word f) : expand (Config.default f) seed ≠ LaneState.zero f := by
  intro h
  have h0 : (Config.default f).mix (addW seed (Config.default f).gamma) = 0 := congrArg Quad.q0 h
  have h1 : (Config.default f).mix (addW (addW seed (Config.default f).gamma) (Config.default f).gamma) = 0 :=
    congrArg Quad.q1 h
  have heq := default_mix_injective f (h1.trans h0.symm)
  have hgamma : (Config.default f).gamma = 0 := by simpa [addW] using heq
  cases f <;> exact absurd hgamma (by decide)

/-! ### Steps keep the state nonzero -/

/-- A full state is all-zero exactly when its values are. -/
theorem State.notAllZero_iff_of_full {cfg : Config f} {b : Block f} {v : LaneState f}
    (hb : b.lanes = v.map some) : State.notAllZero ⟨f, cfg, b⟩ ↔ v ≠ LaneState.zero f := by
  rw [State.notAllZero, hb]
  exact not_congr (Quad.map_injective (Option.some_injective _)).eq_iff

theorem State.notAllZero_of_lanes_eq {cfg : Config f} {b b' : Block f} (hb : b'.lanes = b.lanes)
    (h : State.notAllZero ⟨f, cfg, b⟩) : State.notAllZero ⟨f, cfg, b'⟩ := by
  rwa [State.notAllZero, hb]

/-- SEED ends in a nonzero state wherever it started (R74). -/
theorem Completes.notAllZero_of_seed {b b' : Block f} (hc : Completes (Config.default f) .seed b b') :
    State.notAllZero ⟨f, Config.default f, b'⟩ := by
  obtain ⟨c, -, rfl⟩ := hc
  exact (State.notAllZero_iff_of_full rfl).mpr (expand_default_ne_zero c.din)

/-- A completed command but LDL keeps the state nonzero, for the default configuration. -/
theorem Completes.notAllZero {b b' : Block f} {i : Instr} (hc : Completes (Config.default f) i b b')
    (hi : ∀ n, i ≠ .ldl n) (h : State.notAllZero ⟨f, Config.default f, b⟩) :
    State.notAllZero ⟨f, Config.default f, b'⟩ := by
  have full {v : LaneState f} (hv : b.lanes = v.map some) : v ≠ LaneState.zero f :=
    (State.notAllZero_iff_of_full hv).mp h
  cases i with
  | next =>
    obtain ⟨v, hv, rfl⟩ := hc
    exact (State.notAllZero_iff_of_full rfl).mpr (laneStep_iterate_ne_zero (full hv) 1)
  | jump =>
    obtain ⟨v, hv, rfl⟩ := hc
    exact (State.notAllZero_iff_of_full rfl).mpr (jumpPoly_default_ne_zero (full hv))
  | ljump =>
    obtain ⟨v, hv, rfl⟩ := hc
    exact (State.notAllZero_iff_of_full rfl).mpr (jumpPoly_default_long_ne_zero (full hv))
  | seed => exact hc.notAllZero_of_seed
  | ldl n => exact absurd rfl (hi n)
  | rdl | rdmin | rdmax => exact State.notAllZero_of_lanes_eq (hc.lanes_eq rfl) h

/-- Settles O47: a completed command by its kind, and a record leaves the lanes; SEED never faults. -/
theorem stepsButLdlKeepStateNonzero : Obligations.StepsButLdlKeepStateNonzero := by
  constructor
  · rintro ⟨f, cfg, b⟩ t c hcfg hnz hcur hldl h
    obtain rfl : cfg = Config.default f := hcfg
    obtain ⟨-, c', b', hcur', rfl, hcases⟩ := step_next_cases h
    obtain rfl : c = c' := Option.some.inj (hcur.symm.trans hcur')
    obtain ⟨i, hd, hc | ⟨-, rfl⟩⟩ | ⟨-, rfl⟩ := hcases
    · exact hc.notAllZero (fun n hi => hldl n (hi ▸ hd)) hnz
    · exact State.notAllZero_of_lanes_eq rfl hnz
    · exact State.notAllZero_of_lanes_eq rfl hnz
  · rintro ⟨f, cfg, b⟩ t hcfg h
    obtain rfl : cfg = Config.default f := hcfg
    obtain ⟨-, b', rfl, hc | ⟨⟨n, hn, -⟩, -⟩⟩ := exec_next_cases h
    · exact hc.notAllZero_of_seed
    · cases hn

end Sys2Proof.Machine
end

section
/-! The command port (spec/20_memory.md): the word on the port selects the command that a step runs (R30, R31), and
an issued command joins the end of the host's list (R97, R108). -/

namespace Sys2Proof.Machine

/-- Without a record, a word on the port that decodes to `i` is taken by running `i` (R40). -/
theorem takeCommand_of_decode {σ : Type} {w : BitVec 32} {i : Instr} (hd : decode w = some i)
    (illegal : BitVec 32 → Host.Outcome σ Fault Refusal) (run : Instr → Host.Outcome σ Fault Refusal) :
    takeCommand none (some w) illegal run = run i := by
  simp only [takeCommand, hd]

/-- Settles O6: `step` is `takeCommand`, here without a record and with a word that decodes. -/
theorem stepRunsTheDecodedCommand : Obligations.StepRunsTheDecodedCommand := by
  intro s c i hf hc hd
  rw [step, hf, hc, Option.map_some, takeCommand_of_decode hd]

/-- An issue leaves every command of the list at its position. -/
theorem State.issue_program_getElem? {s : State} {x : Command s.form} {k : Nat} (c : Command s.form)
    (h : s.block.program[k]? = some x) : (s.issue c).block.program[k]? = some x :=
  (List.getElem?_append_left (List.getElem?_eq_some_iff.mp h).1).trans h

/-- With no command outstanding, the issued one is on the port. -/
theorem State.current_issue_of_none_outstanding {s : State} (c : Command s.form)
    (h : s.block.cidx = s.block.program.length) : (s.issue c).block.current = some c := by
  have hlast : (s.block.program ++ [c])[s.block.cidx]? = some c := by
    rw [h, List.getElem?_concat_length]
  exact hlast

/-- Settles O50: the issued command is appended to the list, which moves no earlier one. -/
theorem issuedCommandsAreHeldInOrder : Obligations.IssuedCommandsAreHeldInOrder := by
  intro f cfg b c
  let s : State := ⟨f, cfg, b⟩
  exact ⟨fun _ _ hk => State.issue_program_getElem? (s := s) c hk, List.length_append, rfl,
    fun _ hx => State.current_issue (s := s) c hx,
    fun hend => State.current_issue_of_none_outstanding (s := s) c hend, List.getLast?_concat⟩

end Sys2Proof.Machine
end

section
/-! The encoding statements (spec/30_encoding.md): decoding and encoding are inverse (R39, R40), the legal and the
illegal words (R41, R42, R87), the commands that ignore DIN (R36), and the pseudo-instructions (R46). -/

namespace Sys2Proof

/-! ### Decoding a command's word -/

/-- Every command's word decodes to the command (R39, R40): its fields come back, with RSV zero. -/
@[simp] theorem decode_encode (i : Instr) : decode (encode i) = some i := by
  rw [decode, encode, CmdFields.ofWord_toWord]
  cases i <;> rfl

theorem decode_eq_some_iff {w : BitVec 32} {i : Instr} : decode w = some i ↔ w = encode i :=
  ⟨fun h => (encode_of_decode h).symm, fun h => h ▸ decode_encode i⟩

/-- Settles O1: `encode` is a left inverse of `decode` by the opcode map, and a right inverse by the fields. -/
theorem decodeIsExactInverseOfEncode : Obligations.DecodeIsExactInverseOfEncode :=
  fun _ _ => decode_eq_some_iff

theorem map_decode_map_encode (is : List Instr) : (is.map encode).map decode = is.map some := by
  simp

/-- Settles O2: each row of the map lists the words of its commands. -/
theorem opcodeMapWordsDecode : Obligations.OpcodeMapWordsDecode :=
  ⟨map_decode_map_encode [.next, .jump, .ljump, .seed, .rdmin, .rdmax],
    map_decode_map_encode [.ldl 0, .ldl 1, .ldl 2, .ldl 3],
    map_decode_map_encode [.rdl 0, .rdl 1, .rdl 2, .rdl 3]⟩

/-! ### The legal words -/

/-- The fourteen commands, each lane of LDL and RDL by itself. -/
def Instr.all : List Instr :=
  [.next, .jump, .ljump, .seed, .ldl 0, .ldl 1, .ldl 2, .ldl 3, .rdl 0, .rdl 1, .rdl 2, .rdl 3, .rdmin, .rdmax]

theorem Instr.mem_all (i : Instr) : i ∈ Instr.all := by
  cases i with
  | ldl n | rdl n => fin_cases n <;> decide
  | next | jump | ljump | seed | rdmin | rdmax => decide

/-- A word is legal exactly when it is the word of one of the fourteen commands. -/
theorem decode_isSome_iff_mem {w : BitVec 32} : (decode w).isSome = true ↔ w ∈ Instr.all.map encode := by
  rw [Option.isSome_iff_exists, List.mem_map]
  constructor
  · rintro ⟨i, h⟩
    exact ⟨i, i.mem_all, encode_of_decode h⟩
  · rintro ⟨i, -, rfl⟩
    exact ⟨i, decode_encode i⟩

/-- Settles O3: the fourteen words of R39 are the words of the fourteen commands. -/
theorem legalWordsAreExactlyFourteen : Obligations.LegalWordsAreExactlyFourteen :=
  fun _ => decode_isSome_iff_mem

/-! ### The fields of a word -/

@[simp] theorem CmdFields.ofWord_op_toNat (w : BitVec 32) : (CmdFields.ofWord w).op.toNat = w.toNat % 16 := by
  simp [CmdFields.ofWord]

@[simp] theorem CmdFields.ofWord_lane_toNat (w : BitVec 32) :
    (CmdFields.ofWord w).lane.toNat = w.toNat / 16 % 4 := by
  simp [CmdFields.ofWord, Nat.shiftRight_eq_div_pow]

@[simp] theorem CmdFields.ofWord_rsv_toNat (w : BitVec 32) : (CmdFields.ofWord w).rsv.toNat = w.toNat / 64 := by
  simp [CmdFields.ofWord, Nat.shiftRight_eq_div_pow]
  omega

/-- The opcode map reads a command exactly where the checks on OP and LANE pass (R37, R39). -/
theorem decodeOp_isSome (c : CmdFields) : (decodeOp c.op c.lane).isSome = (c.opOk && c.laneOk) := by
  have h : ∀ (op : BitVec 4) (lane : BitVec 2), (decodeOp op lane).isSome =
      ((CmdFields.mk 0 lane op).opOk && (CmdFields.mk 0 lane op).laneOk) := by decide
  exact h c.op c.lane

/-- Settles O4: RSV is checked first, then OP and LANE by the opcode map. -/
theorem decodableWordsAreTheWellFormedOnes : Obligations.DecodableWordsAreTheWellFormedOnes := by
  intro w
  rw [CmdFields.wellFormed, Bool.and_assoc, ← decodeOp_isSome, decode, CmdFields.rsvOk]
  split <;> simp [*]

/-! ### The illegal words -/

/-- Where the opcode map reads nothing: a code without a command, or a lane on a command without one (R41). -/
theorem decodeOp_eq_none_iff : ∀ (op : BitVec 4) (lane : BitVec 2), decodeOp op lane = none ↔
    op.toNat ∈ [0x0, 0x9, 0xA, 0xB, 0xC, 0xD, 0xE, 0xF] ∨
      (op.toNat ∈ [0x1, 0x2, 0x3, 0x4, 0x7, 0x8] ∧ lane.toNat ≠ 0) := by decide

theorem decode_eq_none_iff {w : BitVec 32} : decode w = none ↔
    (CmdFields.ofWord w).rsv ≠ 0#26 ∨ decodeOp (CmdFields.ofWord w).op (CmdFields.ofWord w).lane = none := by
  rw [decode]
  split <;> simp [*]

namespace Machine

variable {f : Form} {cfg : Config f} {i : Instr} {b b' : Block f}

/-- Without a record, an illegal word on the port is taken as one (R87). -/
theorem takeCommand_of_illegal {σ : Type} {w : BitVec 32} (hd : decode w = none)
    (illegal : BitVec 32 → Host.Outcome σ Fault Refusal) (run : Instr → Host.Outcome σ Fault Refusal) :
    takeCommand none (some w) illegal run = illegal w := by
  simp only [takeCommand, hd]

/-- An illegal word on the port of an unfaulted block writes the record and nothing else (R87, R88). -/
theorem step_of_illegal {c : Command f} (hf : b.fault = none) (hc : b.current = some c)
    (hd : decode c.cmd = none) :
    step ⟨f, cfg, b⟩ = .next ⟨f, cfg, { b with fault := some ⟨.illegal, c.cmd⟩ }⟩ := by
  rw [step_eq_lift, Block.step, hf, hc, Option.map_some, takeCommand_of_illegal hd, illegalEffect,
    Block.running_of_unfaulted hf, Block.raise, liftEffect_next]

/-- Settles O5: the three classes by the fields of the word, its effect by `step`. -/
theorem illegalWordsAreExactlyTheseAndRaiseIllegal : Obligations.IllegalWordsAreExactlyTheseAndRaiseIllegal := by
  refine ⟨fun w => ?_, fun f cfg b c hf hc hd => step_of_illegal hf hc hd, ?_⟩
  · rw [decode_eq_none_iff, decodeOp_eq_none_iff, Ne, ← BitVec.toNat_inj, BitVec.toNat_zero,
      CmdFields.ofWord_rsv_toNat, CmdFields.ofWord_op_toNat, CmdFields.ofWord_lane_toNat]
  · decide

/-! ### What a command answers, from its completion or its fault -/

/-- A command that can complete answers the completed block: the converse of `Block.exec_next_cases`. -/
theorem Completes.exec_eq (hf : b.fault = none) (h : Completes cfg i b b') : b.exec cfg i = .next b' := by
  cases i <;> refine (Block.running_of_unfaulted hf).trans ?_
  case next | jump | ljump => obtain ⟨v, hv, rfl⟩ := h; exact Block.readLanes_of_full hv
  case seed | ldl => obtain ⟨c, hc, rfl⟩ := h; exact Block.readDin_of_current hc
  case rdl => obtain ⟨v, hv, rfl⟩ := h; exact Block.readLane_of_written hv
  case rdmin | rdmax => cases h; rfl

/-- A command that reads an unwritten lane answers the block with the record. -/
theorem Faults.exec_eq (hf : b.fault = none) (h : Faults i b b') : b.exec cfg i = .next b' := by
  obtain ⟨⟨n, hn, hget⟩, rfl⟩ := h
  cases i <;> refine (Block.running_of_unfaulted hf).trans ?_
  case next | jump | ljump => exact Block.readLanes_of_unwritten ⟨n, hget⟩
  case rdl => cases List.mem_singleton.mp hn; exact Block.readLane_of_unwritten hget
  case seed | ldl | rdmin | rdmax => cases hn

theorem lanes_full_or_unwritten (q : Quad (Option (Word f))) :
    (∃ v : LaneState f, q = v.map some) ∨ ∃ n : Lane, q.get n = none := by
  cases h : allWritten q with
  | some v => exact .inl ⟨v, allWritten_eq_some_iff.mp h⟩
  | none => exact .inr (allWritten_eq_none_iff.mp h)

/-- A command completes or faults, when a command that reads DIN has one on the port (R104, R107). -/
theorem exists_completes_or_faults (cfg : Config f) (b : Block f)
    (hdin : i.readsDin = true → ∃ c, b.current = some c) :
    ∃ b', Completes cfg i b b' ∨ Faults i b b' := by
  cases i with
  | next | jump | ljump =>
    obtain ⟨v, hv⟩ | ⟨n, hn⟩ := lanes_full_or_unwritten b.lanes
    · exact ⟨_, .inl ⟨v, hv, rfl⟩⟩
    · exact ⟨_, .inr ⟨⟨n, by fin_cases n <;> decide, hn⟩, rfl⟩⟩
  | seed | ldl =>
    obtain ⟨c, hc⟩ := hdin rfl
    exact ⟨_, .inl ⟨c, hc, rfl⟩⟩
  | rdl n =>
    cases hn : b.lanes.get n with
    | some v => exact ⟨_, .inl ⟨v, hn, rfl⟩⟩
    | none => exact ⟨_, .inr ⟨⟨n, List.mem_singleton_self n, hn⟩, rfl⟩⟩
  | rdmin | rdmax => exact ⟨_, .inl rfl⟩

/-! ### DIN -/

/-- A completion of a command that does not read DIN is one with any other host's list (R36). -/
theorem Completes.with_program (h : Completes cfg i b b') (hi : i.readsDin = false) (p : List (Command f)) :
    Completes cfg i { b with program := p } { b' with program := p } := by
  cases i with
  | next | jump | ljump | rdl => obtain ⟨v, hv, rfl⟩ := h; exact ⟨v, hv, rfl⟩
  | rdmin | rdmax => cases h; rfl
  | seed | ldl => cases hi

theorem Faults.with_program (h : Faults i b b') (p : List (Command f)) :
    Faults i { b with program := p } { b' with program := p } := by
  obtain ⟨hread, rfl⟩ := h
  exact ⟨hread, rfl⟩

/-- A command that does not read DIN answers a next block, the same but for the host's list whatever the list
is. -/
theorem Block.exists_exec_next_with_program (cfg : Config f) (hf : b.fault = none) (hi : i.readsDin = false) :
    ∃ b' : Block f, ∀ p, Block.exec { b with program := p } cfg i = .next { b' with program := p } := by
  obtain ⟨b', h⟩ := exists_completes_or_faults cfg b (i := i) (by simp [hi])
  refine ⟨b', fun p => ?_⟩
  obtain hc | hr := h
  · exact (hc.with_program hi p).exec_eq hf
  · exact (hr.with_program p).exec_eq hf

/-- A word that decodes runs its command on the block (R40). -/
theorem step_of_exec {c : Command f} (hf : b.fault = none) (hc : b.current = some c)
    (hd : decode c.cmd = some i) (h : b.exec cfg i = .next b') : step ⟨f, cfg, b⟩ = .next ⟨f, cfg, b'⟩ :=
  (stepRunsTheDecodedCommand ⟨f, cfg, b⟩ c i hf hc hd).trans (exec_of_block_next h)

/-- Settles O9: presenting another DIN changes the host's list alone, which such a command does not read. -/
theorem otherCommandsIgnoreDin : Obligations.OtherCommandsIgnoreDin := by
  intro f cfg b w d d' hf hseed hldl
  cases hd : decode w with
  | none =>
    exact ⟨_, step_of_illegal hf (b.present_current ⟨w, d⟩) hd,
      step_of_illegal (c := ⟨w, d'⟩) hf (b.present_current ⟨w, d'⟩) hd⟩
  | some i =>
    have hi : i.readsDin = false := by
      cases i with
      | seed => exact absurd hd hseed
      | ldl n => exact absurd hd (hldl n)
      | next | jump | ljump | rdl | rdmin | rdmax => rfl
    obtain ⟨b', hb'⟩ := Block.exists_exec_next_with_program cfg hf hi
    exact ⟨_, step_of_exec hf (b.present_current ⟨w, d⟩) hd (hb' _),
      step_of_exec hf (b.present_current ⟨w, d'⟩) hd (hb' _)⟩

/-! ### Assembly lines -/

/-- Settles O52: a line by its constructor, and the expansions by the words of R39. -/
theorem pseudoInstructionsExpandAsListed : Obligations.PseudoInstructionsExpandAsListed := by
  refine ⟨fun f l => ?_, fun f a b c d k => ⟨rfl, rfl, rfl⟩⟩
  cases l with
  | next | jump | ljump | seed | ldl | rdl | rdmin | rdmax =>
    exact .inl ⟨_, _, rfl, fun _ => ⟨nofun, nofun⟩⟩
  | lds a b c d => exact .inr (.inl ⟨a, b, c, d, rfl⟩)
  | jumpn k => exact .inr (.inr (.inl ⟨k, rfl⟩))
  | skip k => exact .inr (.inr (.inr ⟨k, rfl⟩))

end Machine

end Sys2Proof
end

section
/-! The generator statements (spec/40_generator.md): the output and the state transition in closed form (R47, R48),
the inverse transition and the zero state (R49, R50), the commands NEXT, RDMIN and RDMAX (R51, R53, R54), and that an
effect depends on the lanes and the command alone (R52). -/

namespace Sys2Proof.Machine

variable {f : Form}

/-! ### The effect of a command depends on the lanes and the command alone -/

section SameLanes

variable {cfg : Config f} {i : Instr} {b b' c : Block f}

/-- A completion carries over to a block with equal lanes and the same command on the port: it writes the same lanes,
and the same DOUT where the command writes DOUT. -/
theorem Completes.of_same_lanes (h : Completes cfg i b b') (hl : b.lanes = c.lanes) (hx : b.current = c.current) :
    Completes cfg i c { c with
      lanes := b'.lanes, dout := if i.writesDout then b'.dout else c.dout, cidx := c.cidx + 1 } := by
  cases i with
  | next | jump | ljump => obtain ⟨v, hv, rfl⟩ := h; exact ⟨v, hl ▸ hv, rfl⟩
  | seed => obtain ⟨x, hc, rfl⟩ := h; exact ⟨x, hx ▸ hc, rfl⟩
  | ldl n => obtain ⟨x, hc, rfl⟩ := h; exact ⟨x, hx ▸ hc, by rw [← hl]; rfl⟩
  | rdl n => obtain ⟨v, hv, rfl⟩ := h; exact ⟨v, hl ▸ hv, by simp [hl, Instr.writesDout]⟩
  | rdmin | rdmax => cases h; simp [Completes, hl, Instr.writesDout]

/-- A fault carries over to a block with equal lanes. -/
theorem Faults.of_same_lanes (h : Faults i b b') (hl : b.lanes = c.lanes) :
    Faults i c { c with fault := some ⟨.uninit, encode i⟩ } :=
  ⟨hl ▸ h.1, rfl⟩

end SameLanes

/-- Settles O8: an illegal word records itself; a command that completes or faults on one block does the same on a
block with equal lanes. -/
theorem sameLanesAndCommandGiveSameEffect : Obligations.SameLanesAndCommandGiveSameEffect := by
  intro f cfg b c x hb hc hl hbx hcx
  cases hd : decode x.cmd with
  | none => exact ⟨_, _, step_of_illegal hb hbx hd, step_of_illegal hc hcx hd, hl, rfl, nofun⟩
  | some i =>
    obtain ⟨b', h⟩ := exists_completes_or_faults cfg b (i := i) fun _ => ⟨x, hbx⟩
    obtain h | h := h
    · have h' := h.of_same_lanes hl (hbx.trans hcx.symm)
      refine ⟨b', _, step_of_exec hb hbx hd (h.exec_eq hb), step_of_exec hc hcx hd (h'.exec_eq hc), rfl,
        h.fault_eq.trans (hb.trans hc.symm), fun _ j hj hmem => ?_⟩
      obtain rfl : i = j := Option.some.inj hj
      have hw : i.writesDout = true := by fin_cases hmem <;> rfl
      simp [hw]
    · have h' := h.of_same_lanes hl
      obtain rfl := h.2
      exact ⟨_, _, step_of_exec hb hbx hd (h.exec_eq hb), step_of_exec hc hcx hd (h'.exec_eq hc), hl, rfl, nofun⟩

/-! ### The output -/

/-- A rotation in numbers (R9): the bits that move up and the bits that come in below do not overlap. -/
theorem rotlW_toNat (a : Word f) {k : Nat} (hk : k ≤ f.width) :
    (rotlW a k).toNat = a.toNat * 2 ^ k % 2 ^ f.width + a.toNat / 2 ^ (f.width - k) := by
  have hpow : 2 ^ f.width = 2 ^ (f.width - k) * 2 ^ k := by rw [← Nat.pow_add, Nat.sub_add_cancel hk]
  have hin : a.toNat / 2 ^ (f.width - k) < 2 ^ k := Nat.div_lt_of_lt_mul (hpow ▸ a.isLt)
  rw [rotlW, BitVec.toNat_or, shlW_toNat, shrW_toNat, hpow, Nat.mul_mod_mul_right, Nat.mul_comm _ (2 ^ k),
    Nat.two_pow_add_eq_or_of_lt hin]

/-- The output in numbers (R47). -/
theorem laneOut_toNat (s : LaneState f) : (laneOut s).toNat =
    ((s.q0.toNat + s.q3.toNat) % 2 ^ f.width * 2 ^ outRotation f % 2 ^ f.width +
      (s.q0.toNat + s.q3.toNat) % 2 ^ f.width / 2 ^ (f.width - outRotation f) + s.q0.toNat) % 2 ^ f.width := by
  have hk : outRotation f ≤ f.width := by cases f <;> decide
  rw [laneOut, addW_toNat, rotlW_toNat _ hk, addW_toNat]

/-- Settles O11: the rule in numbers for every width, at the two rotations of R3. -/
theorem outputIsScrambledSum : Obligations.OutputIsScrambledSum :=
  ⟨fun s => laneOut_toNat s, fun s => laneOut_toNat s⟩

@[simp] theorem addW_zero (a : Word f) : addW a 0 = a := BitVec.add_zero a

@[simp] theorem laneOut_zero : laneOut (LaneState.zero f) = 0 := by
  rw [laneOut, LaneState.zero, addW_zero, addW_zero, rotlW_zero]

/-! ### The state transition in closed form -/

theorem rotlW_eq_rotateLeft (a : Word f) {k : Nat} (hk : k < f.width) : rotlW a k = a.rotateLeft k := by
  rw [rotlW, BitVec.rotateLeft_def, Nat.mod_eq_of_lt hk, shlW, shrW]

/-- R48: the in-place updates, composed. -/
theorem laneStep_eq (s : LaneState f) : laneStep s =
    ⟨s.q0 ^^^ s.q1 ^^^ s.q3, s.q0 ^^^ s.q1 ^^^ s.q2, s.q0 ^^^ s.q2 ^^^ (s.q1 <<< shiftAmount f),
      (s.q1 ^^^ s.q3).rotateLeft (stateRotation f)⟩ := by
  simp only [laneStep, shlW, rotlW_eq_rotateLeft _ (stateRotation_lt_width f), Quad.mk.injEq]
  exact ⟨by ac_rfl, by ac_rfl, by ac_rfl, by rw [BitVec.xor_comm]⟩

/-- Settles O12: the closed form for every width, at the amounts of R3. -/
theorem stepHasClosedForm : Obligations.StepHasClosedForm :=
  ⟨fun s => laneStep_eq s, fun s => laneStep_eq s⟩

/-! ### The inverse of the state transition -/

/-- The XOR of the first `m` shifts of `v` by multiples of S: the sum that `undoXorShift` is. -/
def shiftSum (v : Word f) (m : Nat) : Word f :=
  (List.range m).foldl (fun acc k => acc ^^^ shlW v (k * shiftAmount f)) 0

theorem undoXorShift_eq_shiftSum (v : Word f) :
    undoXorShift v = shiftSum v ((f.width + shiftAmount f - 1) / shiftAmount f) := rfl

@[simp] theorem shiftSum_zero (v : Word f) : shiftSum v 0 = 0 := rfl

theorem shiftSum_succ (v : Word f) (m : Nat) :
    shiftSum v (m + 1) = shiftSum v m ^^^ shlW v (m * shiftAmount f) := by
  simp [shiftSum, List.range_succ]

/-- The sum and its shift by S telescope: they share all terms but the first of one and the last of the other. -/
theorem shiftSum_xor_shlW (v : Word f) (m : Nat) :
    shiftSum v m ^^^ shlW (shiftSum v m) (shiftAmount f) = v ^^^ shlW v (m * shiftAmount f) := by
  induction m with
  | zero => simp [shlW]
  | succ m ih =>
    have hshift : shlW (shlW v (m * shiftAmount f)) (shiftAmount f) = shlW v ((m + 1) * shiftAmount f) := by
      rw [Nat.succ_mul]
      exact (BitVec.shiftLeft_add v _ _).symm
    calc shiftSum v (m + 1) ^^^ shlW (shiftSum v (m + 1)) (shiftAmount f)
        = (shiftSum v m ^^^ shlW (shiftSum v m) (shiftAmount f)) ^^^
            (shlW v (m * shiftAmount f) ^^^ shlW v ((m + 1) * shiftAmount f)) := by
          rw [shiftSum_succ, shlW_xor, hshift]; ac_rfl
      _ = v ^^^ shlW v ((m + 1) * shiftAmount f) := by
          rw [ih, ← BitVec.xor_assoc, BitVec.xor_assoc v, BitVec.xor_self, BitVec.xor_zero]

/-- `undoXorShift` undoes `x ^ shl_W(x, S)` (R49): the last shift of the sum is by W or more. -/
theorem undoXorShift_xor_shlW (v : Word f) : undoXorShift v ^^^ shlW (undoXorShift v) (shiftAmount f) = v := by
  have hout : f.width ≤ (f.width + shiftAmount f - 1) / shiftAmount f * shiftAmount f := by cases f <;> decide
  rw [undoXorShift_eq_shiftSum, shiftSum_xor_shlW, shlW, BitVec.shiftLeft_eq_zero hout, BitVec.xor_zero]

/-- A step from R49's predecessor gives the state back, lane by lane. -/
theorem laneStep_laneUnstep (u : LaneState f) : laneStep (laneUnstep u) = u := by
  have cancel (x y : Word f) : x ^^^ y ^^^ y = x := by rw [BitVec.xor_assoc, BitVec.xor_self, BitVec.xor_zero]
  have cancel_mid (x y z : Word f) : x ^^^ y ^^^ z ^^^ y = x ^^^ z := by
    rw [BitVec.xor_assoc x, BitVec.xor_comm y, ← BitVec.xor_assoc, cancel]
  obtain ⟨u0, u1, u2, u3⟩ := u
  simp only [laneStep, laneUnstep, cancel, cancel_mid, Quad.mk.injEq]
  refine ⟨trivial, ?_, ?_, rotlW_rotlW_sub u3 (stateRotation_pos f) (stateRotation_lt_width f)⟩
  · rw [BitVec.xor_comm, cancel]
  · rw [BitVec.xor_assoc, undoXorShift_xor_shlW, ← BitVec.xor_assoc, BitVec.xor_self, BitVec.zero_xor]

/-- A right inverse of an injective function is a left inverse. -/
theorem laneUnstep_laneStep (s : LaneState f) : laneUnstep (laneStep s) = s :=
  laneStep_injective (laneStep_laneUnstep (laneStep s))

/-- The carry out of bit 0 shows that the output is not linear. -/
theorem exists_laneOut_xor_ne (f : Form) :
    ∃ x y : LaneState f, laneOut (x.xor y) ≠ laneOut x ^^^ laneOut y :=
  ⟨⟨1, 0, 0, 0⟩, ⟨0, 0, 0, 1⟩, by cases f <;> decide⟩

/-- Settles O13: R49's inverse undoes a step on one side, and so on both, as a step is injective. -/
theorem stepIsLinearAndInvertible : Obligations.StepIsLinearAndInvertible :=
  fun f => ⟨laneStep_xor, laneUnstep_laneStep, laneStep_laneUnstep, exists_laneOut_xor_ne f⟩

/-- Settles O14: a linear step fixes zero, and an injective one reaches it from zero alone. -/
theorem zeroStateIsAbsorbingAndUnreachable : Obligations.ZeroStateIsAbsorbingAndUnreachable :=
  fun _ => ⟨laneStep_zero, laneOut_zero, fun _ => laneStep_iterate_ne_zero⟩

/-! ### NEXT, RDMIN and RDMAX -/

theorem encode_next : encode .next = 0x00000001#32 := by decide

/-- Settles O10: with four written lanes NEXT completes, with one unwritten it faults; the worked values by
evaluation. -/
theorem nextOutputsOldStateThenSteps : Obligations.NextOutputsOldStateThenSteps := by
  refine ⟨encode_next, by decide, by decide, fun f cfg b hf => ⟨fun v hv => ?_, fun ⟨n, hn⟩ => ?_⟩⟩
  · exact exec_of_block_next (Completes.exec_eq hf ⟨v, hv, rfl⟩)
  · rw [← encode_next]
    exact exec_of_block_next (Faults.exec_eq hf ⟨⟨n, by fin_cases n <;> decide, hn⟩, rfl⟩)

/-- Settles O16: RDMIN reads no lane, so it completes, with MIN = 0. -/
theorem rdminWritesZero : Obligations.RdminWritesZero :=
  ⟨by decide, fun _ _ _ hf => exec_of_block_next (Completes.exec_eq hf rfl)⟩

/-- MAX as a number (R54). -/
theorem maxValue_eq_ofNat (f : Form) : maxValue f = BitVec.ofNat f.width (2 ^ f.width - 1) :=
  BitVec.eq_of_toNat_eq (by simp [maxValue])

/-- Settles O17: RDMAX reads no lane, so it completes, with MAX = 2^W − 1. -/
theorem rdmaxWritesAllOnes : Obligations.RdmaxWritesAllOnes := by
  refine ⟨by decide, fun f cfg b hf => ?_⟩
  rw [← maxValue_eq_ofNat]
  exact exec_of_block_next (Completes.exec_eq hf rfl)

end Sys2Proof.Machine
end

section
/-! The jump statements (spec/41_jump.md): the scan as a polynomial in `laneStep` (R57), the commands JUMP and LJUMP
(R58, R59), and the laws of the jump (R61 to R64), from `jumpPoly_eq_evalPoly` and the two jumps as powers of
`laneStep`. -/

namespace Sys2Proof.Machine

variable {f : Form}

/-! ### The jump as a polynomial in the step -/

/-- Bit `k` of the packed table is the coefficient c_k (R57). -/
theorem polyApply_eq_evalPoly (s : LaneState f) (tab : Quad (Word f)) :
    polyApply s tab = evalPoly (pack tab).toNat s := rfl

/-- Settles O20: both sides are the table's polynomial at the state. -/
theorem jumpPolyIsPolynomialInStep : Obligations.JumpPolyIsPolynomialInStep :=
  fun _ s tab => (jumpPoly_eq_evalPoly s tab).trans (polyApply_eq_evalPoly s tab).symm

/-- Settles O21: the distances 2^(2W) and 2^(3W) of the default tables, at each width. -/
theorem jumpEqualsManySteps : Obligations.JumpEqualsManySteps :=
  ⟨fun s => ⟨jumpPoly_default s, jumpPoly_default_long s⟩,
    fun s => ⟨jumpPoly_default s, jumpPoly_default_long s⟩⟩

/-! ### Commutation -/

theorem evalPoly_xorWhere (p n : Nat) (sel : Nat → Bool) (v : Nat → LaneState f) :
    evalPoly p (xorWhere n sel v) = xorWhere n sel fun j => evalPoly p (v j) := by
  induction n with
  | zero => simp
  | succ n ih =>
    simp only [xorWhere_succ]
    split
    · rw [evalPoly_xor, ih]
    · exact ih

theorem evalPoly_laneStep_iterate (p n : Nat) (s : LaneState f) :
    evalPoly p (laneStep^[n] s) = laneStep^[n] (evalPoly p s) :=
  Function.Commute.iterate_right (f := evalPoly p) (evalPoly_laneStep p) n s

/-- Two polynomials in `laneStep` commute: the one is linear and commutes with each power in the other. -/
theorem evalPoly_comm (p q : Nat) (s : LaneState f) :
    evalPoly q (evalPoly p s) = evalPoly p (evalPoly q s) :=
  calc evalPoly q (evalPoly p s)
      = xorWhere (4 * f.width) q.testBit (fun k => evalPoly p (laneStep^[k] s)) := by
        simp only [evalPoly_laneStep_iterate]; rfl
    _ = evalPoly p (evalPoly q s) := (evalPoly_xorWhere p _ _ _).symm

/-- Settles O22: a jump is a polynomial in `laneStep`, and such polynomials commute. -/
theorem jumpCommutesWithStepAndJump : Obligations.JumpCommutesWithStepAndJump := by
  intro f s tab tab'
  simp only [jumpPoly_eq_evalPoly]
  exact ⟨fun n => evalPoly_laneStep_iterate _ n s, evalPoly_comm _ _ s⟩

/-! ### Zero, nonzero, and distinct states -/

@[simp] theorem jumpPoly_zero (tab : Quad (Word f)) : jumpPoly (LaneState.zero f) tab = LaneState.zero f := by
  rw [jumpPoly_eq_evalPoly, evalPoly_zero]

/-- A state that both default jumps take to a state whose lane 0 is zero. Found outside Lean, as a solution of the
linear equations that say so. -/
def lane0Cleared : (f : Form) → LaneState f
  | .xpp128 => ⟨0x576514c1#32, 0xb2242784#32, 0#32, 0#32⟩
  | .xpp256 => ⟨0xf5202df4369c9852#64, 0x3ccb21a75aed3c1d#64, 1#64, 0#64⟩

theorem lane0Cleared_ne_zero (f : Form) : lane0Cleared f ≠ LaneState.zero f := by cases f <;> decide

theorem jumpPoly_lane0Cleared (f : Form) :
    (jumpPoly (lane0Cleared f) (Config.default f).jumpTable).q0 = 0 := by
  cases f <;> decide +kernel

theorem jumpPoly_long_lane0Cleared (f : Form) :
    (jumpPoly (lane0Cleared f) (Config.default f).longJumpTable).q0 = 0 := by
  cases f <;> decide +kernel

/-- Settles O23: a polynomial in a linear step fixes zero, the default jumps are powers of an injective step, and
`lane0Cleared` witnesses the zero lanes. -/
theorem jumpKeepsZeroAndNonzero : Obligations.JumpKeepsZeroAndNonzero := fun f =>
  ⟨jumpPoly_zero, fun _ hs => ⟨jumpPoly_default_ne_zero hs, jumpPoly_default_long_ne_zero hs⟩,
    ⟨lane0Cleared f, lane0Cleared_ne_zero f, jumpPoly_lane0Cleared f⟩,
    ⟨lane0Cleared f, lane0Cleared_ne_zero f, jumpPoly_long_lane0Cleared f⟩⟩

/-- Settles O24: the default jumps are powers of an injective step. -/
theorem jumpsAreInjective : Obligations.JumpsAreInjective := by
  intro f
  simp only [jumpPoly_default, jumpPoly_default_long]
  exact ⟨laneStep_injective.iterate _, laneStep_injective.iterate _⟩

/-! ### JUMP and LJUMP -/

theorem encode_jump : encode .jump = 0x00000002#32 := by decide

theorem encode_ljump : encode .ljump = 0x00000003#32 := by decide

/-- A command that reads all four lanes faults when one of them is unwritten (R86). -/
theorem exec_of_lane_unwritten {cfg : Config f} {i : Instr} {b : Block f} (hi : i.lanesRead = [0, 1, 2, 3])
    (hf : b.fault = none) (hn : ∃ n : Lane, b.lanes.get n = none) :
    exec i ⟨f, cfg, b⟩ = .next ⟨f, cfg, { b with fault := some ⟨.uninit, encode i⟩ }⟩ := by
  obtain ⟨n, hn⟩ := hn
  have hmem : n ∈ i.lanesRead := by rw [hi]; fin_cases n <;> decide
  exact exec_of_block_next (Faults.exec_eq hf ⟨⟨n, hmem, hn⟩, rfl⟩)

/-- Settles O18: with four written lanes JUMP completes, with one unwritten it faults. -/
theorem jumpReplacesLanesByJumpPoly : Obligations.JumpReplacesLanesByJumpPoly := by
  refine ⟨encode_jump, rfl, rfl, fun f cfg b hf => ⟨fun v hv => ?_, fun hn => ?_⟩⟩
  · exact exec_of_block_next (Completes.exec_eq hf ⟨v, hv, rfl⟩)
  · rw [← encode_jump]
    exact exec_of_lane_unwritten rfl hf hn

/-- Settles O19: with four written lanes LJUMP completes, with one unwritten it faults. -/
theorem ljumpReplacesLanesByJumpPoly : Obligations.LjumpReplacesLanesByJumpPoly := by
  refine ⟨encode_ljump, rfl, rfl, fun f cfg b hf => ⟨fun v hv => ?_, fun hn => ?_⟩⟩
  · exact exec_of_block_next (Completes.exec_eq hf ⟨v, hv, rfl⟩)
  · rw [← encode_ljump]
    exact exec_of_lane_unwritten rfl hf hn

end Sys2Proof.Machine
end

section
/-! The seed expander (spec/42_seed.md): lane n mixes the seed advanced n + 1 times (R68), and with an odd increment
the four advanced values differ, so that an injective mixer keeps the lanes apart (R73, R74). -/

namespace Sys2Proof.Machine

variable {f : Form}

/-! ### The closed form of the expansion -/

/-- The accumulator after n + 1 advances from a seed, the value that lane n mixes (R68). -/
def advanced (gamma seed : Word f) (n : Lane) : Word f := seed + BitVec.ofNat f.width (n.val + 1) * gamma

theorem advanced_eq_ofNat (gamma seed : Word f) (n : Lane) : advanced gamma seed n =
    BitVec.ofNat f.width ((seed.toNat + (n.val + 1) * gamma.toNat) % 2 ^ f.width) :=
  BitVec.eq_of_toNat_eq (by simp [advanced])

theorem advanced_zero (gamma seed : Word f) : advanced gamma seed 0 = addW seed gamma := by
  simp [advanced, addW]

theorem advanced_succ (gamma seed : Word f) {m n : Lane} (h : n.val = m.val + 1) :
    advanced gamma seed n = addW (advanced gamma seed m) gamma := by
  rw [advanced, h, BitVec.ofNat_add, BitVec.add_mul]
  simp [advanced, addW, BitVec.add_assoc]

theorem expandWith_get (gamma : Word f) (mix : Word f → Word f) (seed : Word f) (n : Lane) :
    (expandWith gamma mix seed).get n = mix (advanced gamma seed n) := by
  have h1 := advanced_succ gamma seed (m := 0) (n := 1) rfl
  have h2 := advanced_succ gamma seed (m := 1) (n := 2) rfl
  have h3 := advanced_succ gamma seed (m := 2) (n := 3) rfl
  simp only [expandWith, ← advanced_zero gamma seed, ← h1, ← h2, ← h3]
  fin_cases n <;> rfl

/-- Settles O26: lane n mixes the advanced value, read in numbers. -/
theorem expandMixesSeedPlusMultiples : Obligations.ExpandMixesSeedPlusMultiples := by
  have closed (f : Form) (gamma : Word f) (mix : Word f → Word f) (seed : Word f) (n : Lane) :
      (expandWith gamma mix seed).get n =
        mix (BitVec.ofNat f.width ((seed.toNat + (n.val + 1) * gamma.toNat) % 2 ^ f.width)) := by
    rw [expandWith_get, advanced_eq_ofNat]
  exact ⟨closed, fun f cfg => closed f cfg.gamma cfg.mix⟩

/-! ### The mixers -/

@[simp] theorem MixStep.apply_zero (m : MixStep f) : m.apply 0 = 0 := by
  cases m with
  | xorShift k => simp [MixStep.apply, shrW]
  | mul m => simp [MixStep.apply, mulW]

/-- Every mixer made of xor-shifts and products fixes 0. -/
@[simp] theorem runMixer_zero (steps : List (MixStep f)) : runMixer steps 0 = 0 := by
  induction steps with
  | nil => rfl
  | cons m steps ih => rw [runMixer, List.foldl_cons, MixStep.apply_zero]; exact ih

theorem default_mix_bijective (f : Form) : Function.Bijective (Config.default f).mix :=
  Finite.injective_iff_bijective.mp (default_mix_injective f)

theorem default_mix_zero (f : Form) : (Config.default f).mix 0 = 0 := runMixer_zero _

/-- Settles O28: every step of a default mixer is injective on a finite set of words, and every mixer fixes 0. -/
theorem mixersAreBijectionsFixingZero : Obligations.MixersAreBijectionsFixingZero := fun f =>
  ⟨default_mix_bijective f, default_mix_zero f⟩

/-- Settles O27: running the listed steps in order is the rule's formula by definition. -/
theorem defaultMixersAreMix13AndTriple32 : Obligations.DefaultMixersAreMix13AndTriple32 :=
  ⟨fun _ => rfl, fun _ => rfl, rfl, rfl⟩

/-! ### Non-degeneracy -/

theorem default_gamma_odd (f : Form) : (Config.default f).gamma.getLsbD 0 = true := by cases f <;> decide

/-- The multiples (n + 1)·GAMMA_W of an odd increment differ, so the advanced values do. -/
theorem advanced_injective {gamma : Word f} (hodd : gamma.getLsbD 0 = true) (seed : Word f) :
    Function.Injective (advanced gamma seed) := by
  intro m n h
  have hmod : gamma.toNat % 2 = 1 := by simpa [BitVec.getLsbD, Nat.testBit_zero] using hodd
  have hmul : mulW (BitVec.ofNat f.width (m.val + 1)) gamma = mulW (BitVec.ofNat f.width (n.val + 1)) gamma :=
    add_left_cancel h
  have hofNat := congrArg BitVec.toNat (mulW_right_injective hmod hmul)
  have hwidth : 2 ^ 32 ≤ 2 ^ f.width := Nat.pow_le_pow_right (by decide) (by cases f <;> decide)
  rw [BitVec.toNat_ofNat, BitVec.toNat_ofNat, Nat.mod_eq_of_lt (by omega), Nat.mod_eq_of_lt (by omega)] at hofNat
  exact Fin.ext (by omega)

theorem advanced_eq_zero_iff {gamma seed : Word f} {n : Lane} :
    advanced gamma seed n = 0 ↔ seed = -(BitVec.ofNat f.width (n.val + 1) * gamma) :=
  eq_neg_iff_add_eq_zero.symm

section Mixer

variable {gamma : Word f} {mix : Word f → Word f} (hmix : Function.Injective mix)

include hmix

theorem expandWith_get_ne (hodd : gamma.getLsbD 0 = true) (seed : Word f) {m n : Lane} (hmn : m ≠ n) :
    (expandWith gamma mix seed).get m ≠ (expandWith gamma mix seed).get n := by
  rw [expandWith_get, expandWith_get]
  exact (hmix.comp (advanced_injective hodd seed)).ne hmn

/-- Lanes 0 and 1 differ, so the state is not all-zero. -/
theorem expandWith_ne_zero (hodd : gamma.getLsbD 0 = true) (seed : Word f) :
    expandWith gamma mix seed ≠ LaneState.zero f := fun h =>
  expandWith_get_ne hmix hodd seed (show (0 : Lane) ≠ 1 by decide) (by rw [h]; rfl)

theorem expandWith_get_eq_zero_iff (hzero : mix 0 = 0) (seed : Word f) (n : Lane) :
    (expandWith gamma mix seed).get n = 0 ↔ seed = -(BitVec.ofNat f.width (n.val + 1) * gamma) := by
  rw [expandWith_get, hmix.eq_iff' hzero, advanced_eq_zero_iff]

end Mixer

/-- Settles O29: the default increment is odd and the default mixer an injection that fixes 0, so both premises are
one. -/
theorem seedIsNeverDegenerate : Obligations.SeedIsNeverDegenerate := by
  intro f gamma mix h seed
  have hprem : gamma.getLsbD 0 = true ∧ Function.Injective mix ∧ mix 0 = 0 := by
    obtain ⟨rfl, rfl⟩ | ⟨hodd, hbij, hzero⟩ := h
    · exact ⟨default_gamma_odd f, default_mix_injective f, default_mix_zero f⟩
    · exact ⟨hodd, hbij.injective, hzero⟩
  obtain ⟨hodd, hmix, hzero⟩ := hprem
  refine ⟨fun m n => expandWith_get_ne hmix hodd seed, expandWith_ne_zero hmix hodd seed,
    expandWith_get_eq_zero_iff hmix hzero seed, ?_⟩
  rintro cfg rfl rfl
  rfl

/-! ### SEED -/

theorem encode_seed : encode .seed = 0x00000004#32 := by decide

/-- The expansion of seed 0 that R70 quotes. -/
theorem expand_default_xpp256_zero : expand (Config.default .xpp256) 0 =
    ⟨0xe220a8397b1dcdaf#64, 0x6e789e6aa1b965f4#64, 0x06c45d188009454f#64, 0xf88bb8a8724c81ec#64⟩ := by decide

/-- Settles O25: a command on the port is all that SEED needs to complete, and the seed −(n+1)·GAMMA_W advances to
0, which the mixer fixes. -/
theorem seedWritesExpansionOfDin : Obligations.SeedWritesExpansionOfDin := by
  refine ⟨encode_seed, fun f cfg b c hf hc => ?_, fun f n => ?_, expand_default_xpp256_zero⟩
  · exact exec_of_block_next (Completes.exec_eq hf ⟨c, hc, rfl⟩)
  · exact (expandWith_get_eq_zero_iff (default_mix_injective f) (default_mix_zero f) _ n).mpr rfl

end Sys2Proof.Machine
end

section
/-! The state-access statements (spec/43_state_access.md): LDL and RDL (R77, R78), a state loaded by four LDLs (R79),
and the importer's lane assembly and the LDLs it issues (R80 to R83). -/

namespace Sys2Proof.Machine

variable {f : Form}

/-! ### LDL and RDL -/

theorem encode_ldl (n : Lane) : encode (.ldl n) = 0x00000005#32 ||| (BitVec.ofNat 32 n.val <<< 4) := by
  fin_cases n <;> decide

theorem encode_rdl (n : Lane) : encode (.rdl n) = 0x00000006#32 ||| (BitVec.ofNat 32 n.val <<< 4) := by
  fin_cases n <;> decide

/-- Settles O30: a command on the port is all that LDL needs to complete. -/
theorem ldlWritesOneLane : Obligations.LdlWritesOneLane := fun n =>
  ⟨encode_ldl n, fun _ _ b c hf hc => ⟨b.lanes.set n (some c.din),
    exec_of_block_next (Completes.exec_eq hf ⟨c, hc, rfl⟩),
    Quad.get_set_self .., fun _ hm => Quad.get_set_of_ne _ _ hm⟩⟩

/-- Settles O31: with its lane written RDL completes, with it unwritten it faults. -/
theorem rdlReadsOneLane : Obligations.RdlReadsOneLane := by
  refine fun n => ⟨encode_rdl n, fun f cfg b hf => ⟨fun v hv => ?_, fun hn => ?_⟩⟩
  · exact exec_of_block_next (Completes.exec_eq hf ⟨v, hv, rfl⟩)
  · rw [← encode_rdl]
    exact exec_of_block_next (Faults.exec_eq hf ⟨⟨n, List.mem_singleton_self n, hn⟩, rfl⟩)

/-! ### A list of lane loads -/

section Loads

variable {b : Block f} {c : Command f} {n : Lane} {v : Word f} {rest : List (Command f)}

/-- The lanes after a list of loads, each a lane and the value written to it. -/
def setLanes (q : Quad (Option (Word f))) (loads : List (Lane × Word f)) : Quad (Option (Word f)) :=
  loads.foldl (fun q l => q.set l.1 (some l.2)) q

@[simp] theorem setLanes_nil (q : Quad (Option (Word f))) : setLanes q [] = q := rfl

@[simp] theorem setLanes_cons (q : Quad (Option (Word f))) (l : Lane × Word f) (loads : List (Lane × Word f)) :
    setLanes q (l :: loads) = setLanes (q.set l.1 (some l.2)) loads := rfl

theorem setLanes_get_of_notMem {loads : List (Lane × Word f)} (h : n ∉ loads.map Prod.fst)
    (q : Quad (Option (Word f))) : (setLanes q loads).get n = q.get n := by
  induction loads generalizing q with
  | nil => rfl
  | cons l loads ih =>
    obtain ⟨hne, htail⟩ := List.ne_and_not_mem_of_not_mem_cons h
    rw [setLanes_cons, ih htail, Quad.get_set_of_ne _ _ hne]

/-- A lane loaded once holds the value loaded. -/
theorem setLanes_get_of_mem {loads : List (Lane × Word f)} (hnd : (loads.map Prod.fst).Nodup)
    (h : (n, v) ∈ loads) (q : Quad (Option (Word f))) : (setLanes q loads).get n = some v := by
  induction loads generalizing q with
  | nil => cases h
  | cons l loads ih =>
    obtain ⟨hhead, htail⟩ := List.nodup_cons.mp hnd
    obtain rfl | hmem := List.mem_cons.mp h
    · rw [setLanes_cons, setLanes_get_of_notMem hhead, Quad.get_set_self]
    · exact ih htail hmem _

/-- The first of the outstanding commands is on the port. -/
theorem Block.current_of_drop (h : b.program.drop b.cidx = c :: rest) : b.current = some c := by
  rw [Block.current, ← List.head?_drop, h, List.head?_cons]

/-- One command further, the rest is outstanding. -/
theorem Block.drop_succ_of_drop (h : b.program.drop b.cidx = c :: rest) :
    b.program.drop (b.cidx + 1) = rest := by
  rw [← List.tail_drop, h, List.tail_cons]

theorem step_of_ldl (cfg : Config f) (hf : b.fault = none) (hc : b.current = some ⟨encode (.ldl n), v⟩) :
    step ⟨f, cfg, b⟩ = .next ⟨f, cfg, { b with lanes := b.lanes.set n (some v), cidx := b.cidx + 1 }⟩ :=
  step_of_exec hf hc (decode_encode _) (Completes.exec_eq hf ⟨_, hc, rfl⟩)

/-- Outstanding LDLs run to the end and load their lanes in order. -/
theorem core_run_ldls (cfg : Config f) (loads : List (Lane × Word f)) (hf : b.fault = none)
    (h : b.program.drop b.cidx = loads.map (fun l => ⟨encode (.ldl l.1), l.2⟩) ++ rest) :
    Host.Core.run Sys2Proof.core loads.length (⟨f, cfg, b⟩ : State) =
      .next (⟨f, cfg, { b with lanes := setLanes b.lanes loads, cidx := b.cidx + loads.length }⟩ : State) := by
  induction loads generalizing b with
  | nil => rfl
  | cons l loads ih =>
    have hstep := step_of_ldl cfg hf (Block.current_of_drop h)
    have hrun := ih (b := { b with lanes := b.lanes.set l.1 (some l.2), cidx := b.cidx + 1 }) hf
      (Block.drop_succ_of_drop h)
    rw [List.length_cons, core_run_succ_of_next hstep, hrun, setLanes_cons, Nat.add_assoc, Nat.add_comm 1]

end Loads

/-- Four different lanes are all the lanes. -/
theorem mem_of_nodup_of_length_eq_four {ns : List Lane} (hnd : ns.Nodup) (hlen : ns.length = 4) (n : Lane) :
    n ∈ ns := by
  have hcard : ns.toFinset.card = Fintype.card Lane := by rw [List.toFinset_card_of_nodup hnd, hlen]; rfl
  rw [← List.mem_toFinset, Finset.eq_univ_of_card _ hcard]
  exact Finset.mem_univ n

/-- Four loads of different lanes make a full state. -/
theorem exists_setLanes_eq_map_some {loads : List (Lane × Word f)} (hnd : (loads.map Prod.fst).Nodup)
    (hlen : loads.length = 4) (q : Quad (Option (Word f))) :
    ∃ v : LaneState f, setLanes q loads = v.map some := by
  obtain hfull | ⟨n, hn⟩ := lanes_full_or_unwritten (setLanes q loads)
  · exact hfull
  · obtain ⟨l, hmem, rfl⟩ :=
      List.mem_map.mp (mem_of_nodup_of_length_eq_four hnd ((List.length_map _).trans hlen) n)
    simp [setLanes_get_of_mem hnd hmem] at hn

/-- Settles O32: the four LDLs load each lane once. -/
theorem fourLdlsInAnyOrderLoadAFullState : Obligations.FourLdlsInAnyOrderLoadAFullState := by
  intro f cfg b n0 n1 n2 n3 v0 v1 v2 v3 rest hf hnd hdrop
  let loads : List (Lane × Word f) := [(n0, v0), (n1, v1), (n2, v2), (n3, v3)]
  have hlanes : (loads.map Prod.fst).Nodup := hnd
  obtain ⟨v, hv⟩ := exists_setLanes_eq_map_some hlanes rfl b.lanes
  have hget {n : Lane} {x : Word f} (hmem : (n, x) ∈ loads) : v.get n = x := by
    simpa [hv] using setLanes_get_of_mem hlanes hmem b.lanes
  refine ⟨v, ?_, hget (by simp [loads]), hget (by simp [loads]), hget (by simp [loads]), hget (by simp [loads])⟩
  rw [← hv]
  exact core_run_ldls cfg loads hf hdrop

/-! ### The importer's lane assembly -/

variable {n : Nat}

/-- The two halves in numbers (R80): they do not overlap. -/
theorem assembleHalves_toNat (hn : 2 * n = f.width) (d1 d2 : Nat) :
    (assembleHalves f n d1 d2).toNat = d2 % 2 ^ n * 2 ^ n + d1 % 2 ^ n := by
  have hpow : 2 ^ f.width = 2 ^ n * 2 ^ n := by rw [← hn, Nat.two_mul, Nat.pow_add]
  have hle : 2 ^ n ≤ 2 ^ f.width := Nat.pow_le_pow_right (by decide) (by omega)
  have hhalf (d : Nat) : d % 2 ^ n < 2 ^ n := Nat.mod_lt _ (Nat.two_pow_pos n)
  have hofNat (d : Nat) : (BitVec.ofNat f.width (d &&& (2 ^ n - 1))).toNat = d % 2 ^ n := by
    rw [Nat.and_two_pow_sub_one_eq_mod, BitVec.toNat_ofNat, Nat.mod_eq_of_lt ((hhalf d).trans_le hle)]
  have hhigh : d2 % 2 ^ n * 2 ^ n < 2 ^ f.width :=
    hpow ▸ Nat.mul_lt_mul_of_pos_right (hhalf d2) (Nat.two_pow_pos n)
  rw [assembleHalves, BitVec.toNat_or, shlW_toNat, hofNat, hofNat, Nat.mod_eq_of_lt hhigh, Nat.mul_comm _ (2 ^ n),
    Nat.two_pow_add_eq_or_of_lt (hhalf d1)]

/-- A wide draw is a lane by itself (R81). -/
theorem importLane_of_wide (h : f.width ≤ n) (d : Nat) (rest : List Nat) :
    importLane f n (d :: rest) = some (BitVec.ofNat f.width d, rest) := by
  rw [importLane, if_pos h]

/-- Two draws of W/2 bits are a lane (R80). -/
theorem importLane_of_half (h : 2 * n = f.width) (d1 d2 : Nat) (rest : List Nat) :
    importLane f n (d1 :: d2 :: rest) = some (assembleHalves f n d1 d2, rest) := by
  have hnarrow : ¬ f.width ≤ n := by have := f.width_pos; omega
  rw [importLane, if_neg hnarrow, if_pos h]

/-- No other width makes a lane (R82). -/
theorem importLane_eq_none (hlt : n < f.width) (hne : 2 * n ≠ f.width) (draws : List Nat) :
    importLane f n draws = none := by
  rw [importLane.eq_def, if_neg (Nat.not_le.mpr hlt), if_neg hne]

/-- Settles O53: the lane is the two halves, and the example by evaluation. -/
theorem importerAssemblesLowHalfFirst : Obligations.ImporterAssemblesLowHalfFirst :=
  ⟨fun _ _ d1 d2 rest hn => ⟨_, importLane_of_half hn d1 d2 rest, assembleHalves_toNat hn d1 d2⟩, by decide⟩

/-- Settles O54: the lane is the draw as a word, and the other widths have no branch. -/
theorem importerTruncatesWideDrawsAndOmitsOthers : Obligations.ImporterTruncatesWideDrawsAndOmitsOthers :=
  ⟨fun _ _ d rest h => ⟨_, importLane_of_wide h d rest, BitVec.toNat_ofNat ..⟩,
    fun _ _ draws hlt hne => importLane_eq_none hlt hne draws⟩

/-! ### The commands of an import -/

/-- Four lanes, each from the draws that the one before left, are issued by LDS (R83, R46). -/
theorem importCommands_of_importLane (cfg : Config f) {ds ds1 ds2 ds3 ds4 : List Nat} {w0 w1 w2 w3 : Word f}
    (h0 : importLane f n ds = some (w0, ds1)) (h1 : importLane f n ds1 = some (w1, ds2))
    (h2 : importLane f n ds2 = some (w2, ds3)) (h3 : importLane f n ds3 = some (w3, ds4)) :
    importCommands cfg n ds = some (AsmLine.lds w0 w1 w2 w3).commands := by
  simp [importCommands, importLanes, h0, h1, h2, h3, Quad.map, remixLane]

/-- Settles O55: four assembled pairs or four truncated draws, issued by LDS. -/
theorem importIssuesLdlsInDrawOrder : Obligations.ImportIssuesLdlsInDrawOrder := by
  refine fun f cfg n d1 d2 d3 d4 d5 d6 d7 d8 => ⟨fun h => ?_, fun h => ?_⟩
  · exact importCommands_of_importLane cfg (importLane_of_half h ..) (importLane_of_half h ..)
      (importLane_of_half h ..) (importLane_of_half h ..)
  · exact importCommands_of_importLane cfg (importLane_of_wide h ..) (importLane_of_wide h ..)
      (importLane_of_wide h ..) (importLane_of_wide h ..)

end Sys2Proof.Machine
end

section
/-! The fault statements (spec/60_exceptions.md): which commands fault and what they record (R85, R86, R89), what a
fault writes and that it is terminal (R88), and instances side by side (R94). -/

namespace Sys2Proof.Machine

variable {f : Form} {cfg : Config f} {i : Instr} {b b' : Block f} {r : FaultRecord}

/-! ### Reads of unwritten lanes -/

/-- NEXT, JUMP and LJUMP read every lane, and RDL n reads lane n (R86). -/
theorem mem_lanesRead_of_mem_readers {n : Lane} (hi : i ∈ [Instr.next, .jump, .ljump, .rdl n]) :
    n ∈ i.lanesRead := by
  cases i with
  | next | jump | ljump => fin_cases n <;> decide
  | rdl m =>
    obtain rfl : m = n := by simpa using hi
    exact List.mem_singleton_self m
  | seed | ldl | rdmin | rdmax => simp at hi

/-- Settles O33: the lane is among those the command reads; RDL of a written lane completes. -/
theorem unwrittenLaneRaisesUninit : Obligations.UnwrittenLaneRaisesUninit := by
  refine fun f cfg b n hf => ⟨fun hn i hi => ?_, fun _ _ _ v hv => ?_⟩
  · exact exec_of_block_next (Faults.exec_eq hf ⟨⟨n, mem_lanesRead_of_mem_readers hi, hn⟩, rfl⟩)
  · exact exec_of_block_next (Completes.exec_eq hf ⟨v, hv, rfl⟩)

/-- Which commands a read of an unwritten lane can come from (R85). -/
theorem reader_of_unwritten (h : ∃ n ∈ i.lanesRead, b.lanes.get n = none) :
    (i ∈ [Instr.next, .jump, .ljump] ∧ ∃ n : Lane, b.lanes.get n = none) ∨
      ∃ n : Lane, i = .rdl n ∧ b.lanes.get n = none := by
  obtain ⟨n, hn, hget⟩ := h
  cases i with
  | next | jump | ljump => exact .inl ⟨by simp, n, hget⟩
  | rdl m => exact .inr ⟨m, rfl, List.mem_singleton.mp hn ▸ hget⟩
  | seed | ldl | rdmin | rdmax => cases hn

/-! ### The record of a command -/

/-- A command that ends with a record faulted, as a completed one keeps the block unfaulted. -/
theorem faults_of_record (hf : b.fault = none) (h : Completes cfg i b b' ∨ Faults i b b')
    (hr : b'.fault = some r) : Faults i b b' :=
  h.resolve_left fun hc => by simp [hc.fault_eq, hf] at hr

theorem Faults.record_eq (h : Faults i b b') (hr : b'.fault = some r) : r = ⟨.uninit, encode i⟩ := by
  obtain ⟨-, rfl⟩ := h
  exact (Option.some.inj hr).symm

/-- Settles O35: a command that ends with a record read an unwritten lane. -/
theorem onlyReadsOfUnwrittenLanesFault : Obligations.OnlyReadsOfUnwrittenLanesFault := by
  refine ⟨rfl, rfl, fun f cfg b b' i r h hr => ?_⟩
  rw [exec_eq_lift, liftEffect_eq_next_mk] at h
  obtain ⟨hf, hcases⟩ := Block.exec_next_cases h
  have hfault := faults_of_record hf hcases hr
  exact ⟨hfault.record_eq hr, reader_of_unwritten hfault.1⟩

/-- Settles O34: an illegal word runs no command, and a legal one is the word that its command records. -/
theorem illegalTakesPriorityOverUninit : Obligations.IllegalTakesPriorityOverUninit := by
  refine fun f cfg b c hf hc => ⟨fun hd => ⟨_, step_of_illegal hf hc hd, rfl⟩, fun hd => ?_⟩
  obtain ⟨i, hi⟩ := Option.ne_none_iff_exists'.mp hd
  obtain ⟨b', h⟩ := exists_completes_or_faults cfg b (i := i) fun _ => ⟨c, hc⟩
  have hexec : b.exec cfg i = .next b' := h.elim (Completes.exec_eq hf) (Faults.exec_eq hf)
  refine ⟨b', step_of_exec hf hc hi hexec, fun r hr => ?_⟩
  rw [← encode_of_decode hi]
  exact (faults_of_record hf h hr).record_eq hr

/-! ### A fault writes its record and is terminal -/

/-- A step that ends with a record writes it alone, and the record names the word on the port (R88). -/
theorem step_record_precise {t : State} (h : step ⟨f, cfg, b⟩ = .next t) (hr : t.block.fault = some r) :
    t = ⟨f, cfg, { b with fault := some r }⟩ ∧ ∃ c, b.current = some c ∧ r.cmd = c.cmd := by
  obtain ⟨hf, c, b', hc, rfl, ⟨i, hd, hcases⟩ | ⟨-, rfl⟩⟩ := step_next_cases h
  · have hfault := faults_of_record hf hcases hr
    obtain rfl := hfault.record_eq hr
    obtain ⟨-, rfl⟩ := hfault
    exact ⟨rfl, c, hc, encode_of_decode hd⟩
  · obtain rfl := Option.some.inj hr
    exact ⟨rfl, c, hc, rfl⟩

section Faulted

variable {s : State} (h : s.block.fault = some r)

include h

theorem step_of_faulted : step s = .fault (.halted r) := by
  simp only [step, takeCommand, h]

theorem exec_of_faulted (i : Instr) : exec i s = .fault (.halted r) := by
  obtain ⟨f, cfg, b⟩ := s
  have hblock : b.exec cfg i = .fault (.halted r) := by cases i <;> exact Block.running_of_faulted h
  rw [exec_eq_lift, hblock, liftEffect_fault]

theorem not_complete_of_faulted : ¬ s.complete := fun ⟨_, hnone⟩ => by
  simp [h] at hnone

end Faulted

/-- Settles O36: a faulting step writes its record alone, and every meaning checks the record first. -/
theorem faultsArePreciseAndTerminal : Obligations.FaultsArePreciseAndTerminal :=
  ⟨fun _ _ _ _ _ => step_record_precise,
    fun _ _ h => ⟨step_of_faulted h, exec_of_faulted h, not_complete_of_faulted h, rfl⟩⟩

/-! ### Instances side by side -/

/-- A step of instance `k` that answers a next list replaces entry `k` by its own next state (R94). -/
theorem Instances.stepAt_next_cases {sys sys' : Instances} {k : Nat} (h : sys.stepAt k = some (.next sys')) :
    ∃ s t : State, sys[k]? = some s ∧ step s = .next t ∧ sys' = sys.set k t := by
  obtain ⟨s, hs, hstep⟩ := Option.map_eq_some_iff.mp h
  cases ht : step s with
  | next t =>
    simp only [ht, Host.Outcome.next.injEq] at hstep
    exact ⟨s, t, hs, ht, hstep.symm⟩
  | fault | refused => simp [ht] at hstep

/-- Settles O51: replacing one entry of a list leaves the others. -/
theorem instancesShareNothing : Obligations.InstancesShareNothing := by
  intro sys sys' k h
  obtain ⟨s, t, hs, ht, rfl⟩ := Instances.stepAt_next_cases h
  have hk : k < sys.length := (List.getElem?_eq_some_iff.mp hs).1
  exact ⟨List.length_set, fun j hj => List.getElem?_set_ne hj.symm, s, t, hs, List.getElem?_set_self hk, ht⟩

end Sys2Proof.Machine
end

section
/-! The statements about waiting, the end of a run and reset (spec/70_reset_and_hazards.md): with no command on the
port nothing runs (R98, R104), a run ends within the outstanding commands (R104, R107), and reset overwrites whatever
a step wrote (R98). -/

namespace Sys2Proof.Machine

variable {f : Form} {i : Instr} {b : Block f}

/-! ### The end of a run -/

/-- A command on the port of an unfaulted block is taken in one step (R104, R107): by R52 with the block itself as
the second block. -/
theorem exists_step_next (cfg : Config f) {c : Command f} (hf : b.fault = none) (hc : b.current = some c) :
    ∃ b' : Block f, step ⟨f, cfg, b⟩ = .next ⟨f, cfg, b'⟩ := by
  obtain ⟨b', -, hstep, -⟩ := sameLanesAndCommandGiveSameEffect f cfg b b c hf hf rfl hc hc
  exact ⟨b', hstep⟩

/-- With `m` commands outstanding: each step completes one of them or ends the run with a record. -/
theorem exists_core_run_complete_or_faulted (cfg : Config f) {m : Nat} (hf : b.fault = none)
    (hm : b.cidx + m = b.program.length) :
    ∃ k ≤ m, ∃ t : State, Host.Core.run Sys2Proof.core k (⟨f, cfg, b⟩ : State) = .next t ∧
      (t.complete ∨ t.faulted) := by
  induction m generalizing b with
  | zero => exact ⟨0, Nat.le_refl 0, _, rfl, .inl ⟨hm, hf⟩⟩
  | succ m ih =>
    have hc : b.current = some b.program[b.cidx] := List.getElem?_eq_getElem (by omega)
    obtain ⟨b', hstep⟩ := exists_step_next cfg hf hc
    obtain ⟨hf', i, hdone⟩ | ⟨r, rfl⟩ := completes_or_record_of_step hstep
    · have hm' : b'.cidx + m = b'.program.length := by rw [hdone.cidx_eq, hdone.program_eq]; omega
      obtain ⟨k, hk, t, hrun, hend⟩ := ih hf' hm'
      exact ⟨k + 1, Nat.succ_le_succ hk, t, (core_run_succ_of_next hstep).trans hrun, hend⟩
    · exact ⟨1, Nat.succ_le_succ (Nat.zero_le m), _, core_run_succ_of_next hstep, .inr rfl⟩

/-- Settles O44: the outstanding commands are the list's length less the index. -/
theorem runEndsCompleteOrFaulted : Obligations.RunEndsCompleteOrFaulted :=
  fun s hle hf => exists_core_run_complete_or_faulted s.config hf (Nat.add_sub_cancel' hle)

/-! ### No command on the port -/

/-- The block waits for the host's next command (R98, R104), shown as a refusal (log 8). -/
theorem step_of_noCommand {s : State} (hf : s.block.fault = none) (hc : s.block.current = none) :
    step s = .refused .noCommand := by
  simp only [step, takeCommand, State.current_eq, hf, hc, Option.map_none]

/-- A command that reads DIN has none to read. -/
theorem exec_of_noCommand (cfg : Config f) (hf : b.fault = none) (hc : b.current = none) (hi : i.readsDin = true) :
    exec i ⟨f, cfg, b⟩ = .refused .noCommand := by
  refine exec_of_block_refused ?_
  cases i with
  | seed | ldl => exact (Block.running_of_unfaulted hf).trans (Block.readDin_of_noCommand hc)
  | next | jump | ljump | rdl | rdmin | rdmax => cases hi

/-- Settles O7: `step` finds no command on the port, and SEED and LDL find no DIN. -/
theorem noCommandNoStep : Obligations.NoCommandNoStep :=
  fun s hf hc =>
    ⟨step_of_noCommand hf hc, exec_of_noCommand s.config hf hc rfl, fun _ => exec_of_noCommand s.config hf hc rfl⟩

/-! ### Reset -/

/-- Settles O49: reset reads the configuration alone, which a step keeps. -/
theorem resetOverwritesEverything : Obligations.ResetOverwritesEverything := by
  refine fun s t => ⟨fun h => ?_, State.assertReset_eq s⟩
  obtain ⟨b', rfl⟩ := liftEffect_next_same_params ((step_eq_lift s.config s.block).symm.trans h)
  rfl

end Sys2Proof.Machine
end
